-- ==== Sys2Proof/Word.lean ====
section
/-! DEFINITION. The words and value types of the block: cell indices, immediates, command words, limbs
(00_scope.md R9, 30_encoding.md R50, 20_memory.md R33), and the source's value types, a tower element and a
point, as tuples of canonical representatives (10_state.md R12 to R14). -/

namespace Sys2Proof

/-- A register field: an unsigned cell index `0 .. 255`, used as it stands (30_encoding.md R52). -/
abbrev CellIdx := BitVec 8

/-- The immediate, `bits[63:48]`, always unsigned (30_encoding.md R53). -/
abbrev Imm := BitVec 16

/-- A command word (30_encoding.md R50). -/
abbrev CmdWord := BitVec 64

/-- One limb of a payload (20_memory.md R33, R34). -/
abbrev Limb := BitVec 64

/-- `bitlen(e)`: the number of bits of `e` without leading zeros, `bitlen(0) = 0` (00_scope.md R9). -/
def bitLen (e : Nat) : Nat :=
  if e = 0 then 0 else e.log2 + 1

/-- An `Fq2` element `c0 + c1·u` (42_extension_tower.md R140). -/
structure Fq2 where
  c0 : Nat
  c1 : Nat
deriving DecidableEq, Repr, Inhabited

/-- An `Fq6` element `c0 + c1·v + c2·v²` (42_extension_tower.md R140). -/
structure Fq6 where
  c0 : Fq2
  c1 : Fq2
  c2 : Fq2
deriving DecidableEq, Repr, Inhabited

/-- An `Fq12` element `c0 + c1·w` (42_extension_tower.md R140). -/
structure Fq12 where
  c0 : Fq6
  c1 : Fq6
deriving DecidableEq, Repr, Inhabited

/-- An affine point as its three cells `x, y, inf`; `inf` holds 0 or 1 (10_state.md R13). -/
structure Affine where
  x : Nat
  y : Nat
  inf : Nat
deriving DecidableEq, Repr, Inhabited

/-- A Jacobian point as its three cells `X, Y, Z` (10_state.md R14). -/
structure Jacobian where
  x : Nat
  y : Nat
  z : Nat
deriving DecidableEq, Repr, Inhabited

/-- Every coefficient is a canonical representative modulo `m` (42_extension_tower.md R141). -/
abbrev Fq2.Reduced (m : Nat) (a : Fq2) : Prop := a.c0 < m ∧ a.c1 < m

/-- Every coefficient is a canonical representative modulo `m` (42_extension_tower.md R141). -/
abbrev Fq6.Reduced (m : Nat) (a : Fq6) : Prop := a.c0.Reduced m ∧ a.c1.Reduced m ∧ a.c2.Reduced m

/-- Every coefficient is a canonical representative modulo `m` (42_extension_tower.md R141). -/
abbrev Fq12.Reduced (m : Nat) (a : Fq12) : Prop := a.c0.Reduced m ∧ a.c1.Reduced m

/-- The coordinates are canonical representatives modulo `m` and the flag is 0 or 1 (10_state.md R13). -/
abbrev Affine.Reduced (m : Nat) (P : Affine) : Prop := P.x < m ∧ P.y < m ∧ P.inf ≤ 1

/-- The coordinates are canonical representatives modulo `m` (10_state.md R14). -/
abbrev Jacobian.Reduced (m : Nat) (P : Jacobian) : Prop := P.x < m ∧ P.y < m ∧ P.z < m

/-- The three classes of the Legendre symbol (41_prime_field.md R118). -/
inductive Legendre where
  | zero
  | residue
  | nonResidue
deriving DecidableEq, Repr

end Sys2Proof
end

