-- ==== Sys2Proof/Syntax.lean ====
section
/-! DEFINITION. The commands of `CORE-CMD revision 1`: one constructor per row of spec/opcode_table.json
(30_encoding.md R54), with the operands the row uses, in the order `rd, ra, rb, imm` (R57). -/

namespace Sys2Proof

/-- The complete command set (30_encoding.md R54). `rd`, `ra`, `rb` are cell indices (R52); the immediate is named
as its rule names it: a count `n`, a Frobenius power `k`, a sign selector `sign` (R53). -/
inductive Instr where
  -- System commands (49_host_and_control.md)
  /-- `nop` (R320). -/
  | nop
  /-- `ld` (R321). -/
  | ld (rd : CellIdx)
  /-- `st` (R322). -/
  | st (ra : CellIdx)
  /-- `mov` (R323). -/
  | mov (rd ra : CellIdx) (n : Imm)
  /-- `ldi` (R324). -/
  | ldi (rd : CellIdx) (imm : Imm)
  -- Prime-field commands (41_prime_field.md, 47_sqrt.md)
  /-- `zero.fq` (R102). -/
  | zeroFq (rd : CellIdx)
  /-- `zero.fr` (R102). -/
  | zeroFr (rd : CellIdx)
  /-- `one.fq` (R103). -/
  | oneFq (rd : CellIdx)
  /-- `one.fr` (R103). -/
  | oneFr (rd : CellIdx)
  /-- `isz.fq` (R104). -/
  | iszFq (ra : CellIdx)
  /-- `isz.fr` (R104). -/
  | iszFr (ra : CellIdx)
  /-- `isone.fq` (R105). -/
  | isoneFq (ra : CellIdx)
  /-- `isone.fr` (R105). -/
  | isoneFr (ra : CellIdx)
  /-- `eq.fq` (R106). -/
  | eqFq (ra rb : CellIdx)
  /-- `eq.fr` (R106). -/
  | eqFr (ra rb : CellIdx)
  /-- `add.fq` (R107). -/
  | addFq (rd ra rb : CellIdx)
  /-- `add.fr` (R107). -/
  | addFr (rd ra rb : CellIdx)
  /-- `sub.fq` (R108). -/
  | subFq (rd ra rb : CellIdx)
  /-- `sub.fr` (R108). -/
  | subFr (rd ra rb : CellIdx)
  /-- `mul.fq` (R109). -/
  | mulFq (rd ra rb : CellIdx)
  /-- `mul.fr` (R109). -/
  | mulFr (rd ra rb : CellIdx)
  /-- `neg.fq` (R110). -/
  | negFq (rd ra : CellIdx)
  /-- `neg.fr` (R110). -/
  | negFr (rd ra : CellIdx)
  /-- `dbl.fq` (R111). -/
  | dblFq (rd ra : CellIdx)
  /-- `dbl.fr` (R111). -/
  | dblFr (rd ra : CellIdx)
  /-- `sqr.fq` (R112). -/
  | sqrFq (rd ra : CellIdx)
  /-- `sqr.fr` (R112). -/
  | sqrFr (rd ra : CellIdx)
  /-- `inv.fq` (R113). -/
  | invFq (rd ra : CellIdx)
  /-- `inv.fr` (R113). -/
  | invFr (rd ra : CellIdx)
  /-- `div.fq` (R114). -/
  | divFq (rd ra rb : CellIdx)
  /-- `div.fr` (R114). -/
  | divFr (rd ra rb : CellIdx)
  /-- `pow.fq` (R115). -/
  | powFq (rd ra rb : CellIdx)
  /-- `pow.fr` (R115). -/
  | powFr (rd ra rb : CellIdx)
  /-- `sop.fq` (R116). -/
  | sopFq (rd ra rb : CellIdx) (n : Imm)
  /-- `sop.fr` (R116). -/
  | sopFr (rd ra rb : CellIdx) (n : Imm)
  /-- `char.fq` (R117). -/
  | charFq (rd : CellIdx)
  /-- `char.fr` (R117). -/
  | charFr (rd : CellIdx)
  /-- `leg.fq` (R118). -/
  | legFq (ra : CellIdx)
  /-- `leg.fr` (R118). -/
  | legFr (ra : CellIdx)
  /-- `sqrt.fq` (R305). -/
  | sqrtFq (rd ra : CellIdx)
  /-- `sqrt.fr` (R305). -/
  | sqrtFr (rd ra : CellIdx)
  /-- `red.fq` (R121). -/
  | redFq (rd ra : CellIdx)
  /-- `red.fr` (R121). -/
  | redFr (rd ra : CellIdx)
  -- Extension-tower commands (42_extension_tower.md)
  /-- `zero.fq2` (R142). -/
  | zeroFq2 (rd : CellIdx)
  /-- `zero.fq6` (R157). -/
  | zeroFq6 (rd : CellIdx)
  /-- `zero.fq12` (R172). -/
  | zeroFq12 (rd : CellIdx)
  /-- `one.fq2` (R143). -/
  | oneFq2 (rd : CellIdx)
  /-- `one.fq6` (R158). -/
  | oneFq6 (rd : CellIdx)
  /-- `one.fq12` (R173). -/
  | oneFq12 (rd : CellIdx)
  /-- `isz.fq2` (R144). -/
  | iszFq2 (ra : CellIdx)
  /-- `isz.fq6` (R159). -/
  | iszFq6 (ra : CellIdx)
  /-- `isz.fq12` (R174). -/
  | iszFq12 (ra : CellIdx)
  /-- `isone.fq2` (R145). -/
  | isoneFq2 (ra : CellIdx)
  /-- `isone.fq6` (R160). -/
  | isoneFq6 (ra : CellIdx)
  /-- `isone.fq12` (R175). -/
  | isoneFq12 (ra : CellIdx)
  /-- `eq.fq2` (R146). -/
  | eqFq2 (ra rb : CellIdx)
  /-- `eq.fq6` (R161). -/
  | eqFq6 (ra rb : CellIdx)
  /-- `eq.fq12` (R176). -/
  | eqFq12 (ra rb : CellIdx)
  /-- `add.fq2` (R147). -/
  | addFq2 (rd ra rb : CellIdx)
  /-- `add.fq6` (R162). -/
  | addFq6 (rd ra rb : CellIdx)
  /-- `add.fq12` (R177). -/
  | addFq12 (rd ra rb : CellIdx)
  /-- `sub.fq2` (R148). -/
  | subFq2 (rd ra rb : CellIdx)
  /-- `sub.fq6` (R163). -/
  | subFq6 (rd ra rb : CellIdx)
  /-- `sub.fq12` (R178). -/
  | subFq12 (rd ra rb : CellIdx)
  /-- `mul.fq2` (R149). -/
  | mulFq2 (rd ra rb : CellIdx)
  /-- `mul.fq6` (R164). -/
  | mulFq6 (rd ra rb : CellIdx)
  /-- `mul.fq12` (R179). -/
  | mulFq12 (rd ra rb : CellIdx)
  /-- `neg.fq2` (R150). -/
  | negFq2 (rd ra : CellIdx)
  /-- `neg.fq6` (R165). -/
  | negFq6 (rd ra : CellIdx)
  /-- `neg.fq12` (R180). -/
  | negFq12 (rd ra : CellIdx)
  /-- `dbl.fq2` (R151). -/
  | dblFq2 (rd ra : CellIdx)
  /-- `dbl.fq6` (R166). -/
  | dblFq6 (rd ra : CellIdx)
  /-- `dbl.fq12` (R181). -/
  | dblFq12 (rd ra : CellIdx)
  /-- `sqr.fq2` (R152). -/
  | sqrFq2 (rd ra : CellIdx)
  /-- `sqr.fq6` (R167). -/
  | sqrFq6 (rd ra : CellIdx)
  /-- `sqr.fq12` (R182). -/
  | sqrFq12 (rd ra : CellIdx)
  /-- `inv.fq2` (R153). -/
  | invFq2 (rd ra : CellIdx)
  /-- `inv.fq6` (R168). -/
  | invFq6 (rd ra : CellIdx)
  /-- `inv.fq12` (R183). -/
  | invFq12 (rd ra : CellIdx)
  /-- `div.fq2` (R154). -/
  | divFq2 (rd ra rb : CellIdx)
  /-- `div.fq6` (R169). -/
  | divFq6 (rd ra rb : CellIdx)
  /-- `div.fq12` (R184). -/
  | divFq12 (rd ra rb : CellIdx)
  /-- `pow.fq2` (R155). -/
  | powFq2 (rd ra rb : CellIdx)
  /-- `pow.fq6` (R170). -/
  | powFq6 (rd ra rb : CellIdx)
  /-- `pow.fq12` (R185). -/
  | powFq12 (rd ra rb : CellIdx)
  /-- `sop.fq2` (R156). -/
  | sopFq2 (rd ra rb : CellIdx) (n : Imm)
  /-- `sop.fq6` (R171). -/
  | sopFq6 (rd ra rb : CellIdx) (n : Imm)
  /-- `sop.fq12` (R186). -/
  | sopFq12 (rd ra rb : CellIdx) (n : Imm)
  -- Frobenius, non-residue, sparse and cyclotomic commands (43_frobenius_sparse_cyclotomic.md)
  /-- `frob.fq2` (R201). -/
  | frobFq2 (rd ra : CellIdx) (k : Imm)
  /-- `frob.fq6` (R202). -/
  | frobFq6 (rd ra : CellIdx) (k : Imm)
  /-- `frob.fq12` (R203). -/
  | frobFq12 (rd ra : CellIdx) (k : Imm)
  /-- `mulnr.fq` (R205). -/
  | mulnrFq (rd ra : CellIdx)
  /-- `mulnr.fq2` (R206). -/
  | mulnrFq2 (rd ra : CellIdx)
  /-- `mulnr.fq6` (R207). -/
  | mulnrFq6 (rd ra : CellIdx)
  /-- `mul01.fq6` (R208). -/
  | mul01Fq6 (rd ra rb : CellIdx)
  /-- `mul014.fq12` (R209). -/
  | mul014Fq12 (rd ra rb : CellIdx)
  /-- `mul034.fq12` (R210). -/
  | mul034Fq12 (rd ra rb : CellIdx)
  /-- `cycsqr.fq12` (R212). -/
  | cycsqrFq12 (rd ra : CellIdx)
  /-- `cycexp.fq12` (R213). -/
  | cycexpFq12 (rd ra rb : CellIdx)
  -- Curve commands (44_curve_group.md, 45_batch_normalization.md, 46_scalar_mul.md)
  /-- `pzero.g1` (R232). -/
  | pzero (rd : CellIdx)
  /-- `pisz.g1` (R233). -/
  | pisz (ra : CellIdx)
  /-- `aisz.g1` (R234). -/
  | aisz (ra : CellIdx)
  /-- `pdbl.g1` (R235). -/
  | pdbl (rd ra : CellIdx)
  /-- `padd.g1` (R236). -/
  | padd (rd ra rb : CellIdx)
  /-- `paddm.g1` (R237). -/
  | paddm (rd ra rb : CellIdx)
  /-- `aneg.g1` (R238). -/
  | aneg (rd ra : CellIdx)
  /-- `peq.g1` (R239). -/
  | peq (ra rb : CellIdx)
  /-- `a2p.g1` (R240). -/
  | a2p (rd ra : CellIdx)
  /-- `p2a.g1` (R241). -/
  | p2a (rd ra : CellIdx)
  /-- `bnorm.g1` (R270). -/
  | bnorm (rd : CellIdx) (n : Imm)
  /-- `pgen.g1` (R242). -/
  | pgen (rd : CellIdx)
  /-- `cof.g1` (R243). -/
  | cof (rd : CellIdx)
  /-- `pdec.g1` (R253). -/
  | pdec (rd ra : CellIdx) (sign : Imm)
  /-- `pmuln.g1` (R287). -/
  | pmuln (rd ra rb : CellIdx)
  /-- `pmul.g1` (R286). -/
  | pmul (rd ra rb : CellIdx)
deriving DecidableEq, Repr

end Sys2Proof
end

