-- ==== Sys2Proof/WellFormed.lean ====
section
/-! DEFINITION. Well-formedness of a command as syntax: the operand values some legal word carries (30_encoding.md R52,
R53, R55). Cell indices and immediates carry their bounds in their types; what is left to check is the sign
selector of `pdec`. -/

namespace Sys2Proof

/-- The sign selector of `pdec` is 0 or 1: "other values are illegal encodings" (R53). -/
def signSelectorOk (s : Imm) : Bool := decide (s.toNat ≤ 1)

/-- The operands of the command are values some legal word carries (R53, R55). -/
def Instr.wellFormed : Instr → Bool
  | .pdec _ _ s => signSelectorOk s
  | .nop => true
  | .ld _ => true
  | .st _ => true
  | .mov _ _ _ => true
  | .ldi _ _ => true
  | .zeroFq _ => true
  | .zeroFr _ => true
  | .zeroFq2 _ => true
  | .zeroFq6 _ => true
  | .zeroFq12 _ => true
  | .oneFq _ => true
  | .oneFr _ => true
  | .oneFq2 _ => true
  | .oneFq6 _ => true
  | .oneFq12 _ => true
  | .iszFq _ => true
  | .iszFr _ => true
  | .iszFq2 _ => true
  | .iszFq6 _ => true
  | .iszFq12 _ => true
  | .isoneFq _ => true
  | .isoneFr _ => true
  | .isoneFq2 _ => true
  | .isoneFq6 _ => true
  | .isoneFq12 _ => true
  | .eqFq _ _ => true
  | .eqFr _ _ => true
  | .eqFq2 _ _ => true
  | .eqFq6 _ _ => true
  | .eqFq12 _ _ => true
  | .addFq _ _ _ => true
  | .addFr _ _ _ => true
  | .addFq2 _ _ _ => true
  | .addFq6 _ _ _ => true
  | .addFq12 _ _ _ => true
  | .subFq _ _ _ => true
  | .subFr _ _ _ => true
  | .subFq2 _ _ _ => true
  | .subFq6 _ _ _ => true
  | .subFq12 _ _ _ => true
  | .mulFq _ _ _ => true
  | .mulFr _ _ _ => true
  | .mulFq2 _ _ _ => true
  | .mulFq6 _ _ _ => true
  | .mulFq12 _ _ _ => true
  | .negFq _ _ => true
  | .negFr _ _ => true
  | .negFq2 _ _ => true
  | .negFq6 _ _ => true
  | .negFq12 _ _ => true
  | .dblFq _ _ => true
  | .dblFr _ _ => true
  | .dblFq2 _ _ => true
  | .dblFq6 _ _ => true
  | .dblFq12 _ _ => true
  | .sqrFq _ _ => true
  | .sqrFr _ _ => true
  | .sqrFq2 _ _ => true
  | .sqrFq6 _ _ => true
  | .sqrFq12 _ _ => true
  | .invFq _ _ => true
  | .invFr _ _ => true
  | .invFq2 _ _ => true
  | .invFq6 _ _ => true
  | .invFq12 _ _ => true
  | .divFq _ _ _ => true
  | .divFr _ _ _ => true
  | .divFq2 _ _ _ => true
  | .divFq6 _ _ _ => true
  | .divFq12 _ _ _ => true
  | .powFq _ _ _ => true
  | .powFr _ _ _ => true
  | .powFq2 _ _ _ => true
  | .powFq6 _ _ _ => true
  | .powFq12 _ _ _ => true
  | .sopFq _ _ _ _ => true
  | .sopFr _ _ _ _ => true
  | .sopFq2 _ _ _ _ => true
  | .sopFq6 _ _ _ _ => true
  | .sopFq12 _ _ _ _ => true
  | .charFq _ => true
  | .charFr _ => true
  | .legFq _ => true
  | .legFr _ => true
  | .sqrtFq _ _ => true
  | .sqrtFr _ _ => true
  | .redFq _ _ => true
  | .redFr _ _ => true
  | .frobFq2 _ _ _ => true
  | .frobFq6 _ _ _ => true
  | .frobFq12 _ _ _ => true
  | .mulnrFq _ _ => true
  | .mulnrFq2 _ _ => true
  | .mulnrFq6 _ _ => true
  | .mul01Fq6 _ _ _ => true
  | .mul014Fq12 _ _ _ => true
  | .mul034Fq12 _ _ _ => true
  | .cycsqrFq12 _ _ => true
  | .cycexpFq12 _ _ _ => true
  | .pzero _ => true
  | .pisz _ => true
  | .aisz _ => true
  | .pdbl _ _ => true
  | .padd _ _ _ => true
  | .paddm _ _ _ => true
  | .aneg _ _ => true
  | .peq _ _ => true
  | .a2p _ _ => true
  | .p2a _ _ => true
  | .bnorm _ _ => true
  | .pgen _ => true
  | .cof _ => true
  | .pmuln _ _ _ => true
  | .pmul _ _ _ => true

end Sys2Proof
end

