-- ==== Sys2Proof/Decode.lean ====
section
/-! DEFINITION. Decoding a command word (30_encoding.md R50 to R56), total on 64-bit words, every illegal word rejected
by name; and the encoder, written from the same table. -/

namespace Sys2Proof

/-! ### The one format, `CMD64` -/

/-- The fields of a command word (R50). -/
structure Fields where
  op : BitVec 8
  ty : BitVec 4
  z0 : BitVec 4
  rd : BitVec 8
  ra : BitVec 8
  rb : BitVec 8
  z1 : BitVec 8
  imm : BitVec 16
deriving DecidableEq, Repr

/-- Bits 7:0 `op`, 11:8 `ty`, 15:12 `z0`, 23:16 `rd`, 31:24 `ra`, 39:32 `rb`, 47:40 `z1`, 63:48 `imm` (R50). -/
def unpackWord (w : CmdWord) : Fields where
  op := w.extractLsb' 0 8
  ty := w.extractLsb' 8 4
  z0 := w.extractLsb' 12 4
  rd := w.extractLsb' 16 8
  ra := w.extractLsb' 24 8
  rb := w.extractLsb' 32 8
  z1 := w.extractLsb' 40 8
  imm := w.extractLsb' 48 16

/-- The word with the given fields (R50). -/
def packWord (f : Fields) : CmdWord :=
  f.imm ++ f.z1 ++ f.rb ++ f.ra ++ f.rd ++ f.z0 ++ f.ty ++ f.op

/-! ### The opcode map -/

/-- Which fields a row uses and the command it makes of them (R52, R54, column "fields": `d` for `rd`, `a` for `ra`,
`b` for `rb`, `i` for `imm`; `das` is `pdec`, whose `imm` is the sign selector). -/
inductive Shape where
  | n (mk : Instr)
  | d (mk : CellIdx → Instr)
  | a (mk : CellIdx → Instr)
  | ab (mk : CellIdx → CellIdx → Instr)
  | da (mk : CellIdx → CellIdx → Instr)
  | dab (mk : CellIdx → CellIdx → CellIdx → Instr)
  | di (mk : CellIdx → Imm → Instr)
  | dai (mk : CellIdx → CellIdx → Imm → Instr)
  | dabi (mk : CellIdx → CellIdx → CellIdx → Imm → Instr)
  | das (mk : CellIdx → CellIdx → Imm → Instr)

/-- A row of the opcode map: a command is selected by the pair (`op`, `ty`) (R54). -/
structure Row where
  op : BitVec 8
  ty : BitVec 4
  shape : Shape

/-- The system commands, `ty = 15` (R54). -/
def systemRows : List Row := [
  ⟨0x00, 15, .n .nop⟩, ⟨0x01, 15, .d .ld⟩, ⟨0x02, 15, .a .st⟩, ⟨0x03, 15, .dai .mov⟩, ⟨0x04, 15, .di .ldi⟩]

/-- `zero`, `one`, `char` (R54). -/
def constantRows : List Row := [
  ⟨0x10, 0, .d .zeroFq⟩, ⟨0x10, 1, .d .zeroFr⟩, ⟨0x10, 2, .d .zeroFq2⟩, ⟨0x10, 3, .d .zeroFq6⟩,
  ⟨0x10, 4, .d .zeroFq12⟩, ⟨0x11, 0, .d .oneFq⟩, ⟨0x11, 1, .d .oneFr⟩, ⟨0x11, 2, .d .oneFq2⟩, ⟨0x11, 3, .d .oneFq6⟩,
  ⟨0x11, 4, .d .oneFq12⟩, ⟨0x1F, 0, .d .charFq⟩, ⟨0x1F, 1, .d .charFr⟩]

/-- `isz`, `isone`, `eq`, `leg` (R54). -/
def predicateRows : List Row := [
  ⟨0x12, 0, .a .iszFq⟩, ⟨0x12, 1, .a .iszFr⟩, ⟨0x12, 2, .a .iszFq2⟩, ⟨0x12, 3, .a .iszFq6⟩, ⟨0x12, 4, .a .iszFq12⟩,
  ⟨0x13, 0, .a .isoneFq⟩, ⟨0x13, 1, .a .isoneFr⟩, ⟨0x13, 2, .a .isoneFq2⟩, ⟨0x13, 3, .a .isoneFq6⟩,
  ⟨0x13, 4, .a .isoneFq12⟩, ⟨0x14, 0, .ab .eqFq⟩, ⟨0x14, 1, .ab .eqFr⟩, ⟨0x14, 2, .ab .eqFq2⟩, ⟨0x14, 3, .ab .eqFq6⟩,
  ⟨0x14, 4, .ab .eqFq12⟩, ⟨0x20, 0, .a .legFq⟩, ⟨0x20, 1, .a .legFr⟩]

/-- `add`, `sub`, `neg`, `dbl` (R54). -/
def adderRows : List Row := [
  ⟨0x15, 0, .dab .addFq⟩, ⟨0x15, 1, .dab .addFr⟩, ⟨0x15, 2, .dab .addFq2⟩, ⟨0x15, 3, .dab .addFq6⟩,
  ⟨0x15, 4, .dab .addFq12⟩, ⟨0x16, 0, .dab .subFq⟩, ⟨0x16, 1, .dab .subFr⟩, ⟨0x16, 2, .dab .subFq2⟩,
  ⟨0x16, 3, .dab .subFq6⟩, ⟨0x16, 4, .dab .subFq12⟩, ⟨0x18, 0, .da .negFq⟩, ⟨0x18, 1, .da .negFr⟩,
  ⟨0x18, 2, .da .negFq2⟩, ⟨0x18, 3, .da .negFq6⟩, ⟨0x18, 4, .da .negFq12⟩, ⟨0x19, 0, .da .dblFq⟩,
  ⟨0x19, 1, .da .dblFr⟩, ⟨0x19, 2, .da .dblFq2⟩, ⟨0x19, 3, .da .dblFq6⟩, ⟨0x19, 4, .da .dblFq12⟩]

/-- `mul`, `sqr`, `pow`, `sop` (R54). -/
def multiplierRows : List Row := [
  ⟨0x17, 0, .dab .mulFq⟩, ⟨0x17, 1, .dab .mulFr⟩, ⟨0x17, 2, .dab .mulFq2⟩, ⟨0x17, 3, .dab .mulFq6⟩,
  ⟨0x17, 4, .dab .mulFq12⟩, ⟨0x1A, 0, .da .sqrFq⟩, ⟨0x1A, 1, .da .sqrFr⟩, ⟨0x1A, 2, .da .sqrFq2⟩,
  ⟨0x1A, 3, .da .sqrFq6⟩, ⟨0x1A, 4, .da .sqrFq12⟩, ⟨0x1D, 0, .dab .powFq⟩, ⟨0x1D, 1, .dab .powFr⟩,
  ⟨0x1D, 2, .dab .powFq2⟩, ⟨0x1D, 3, .dab .powFq6⟩, ⟨0x1D, 4, .dab .powFq12⟩, ⟨0x1E, 0, .dabi .sopFq⟩,
  ⟨0x1E, 1, .dabi .sopFr⟩, ⟨0x1E, 2, .dabi .sopFq2⟩, ⟨0x1E, 3, .dabi .sopFq6⟩, ⟨0x1E, 4, .dabi .sopFq12⟩]

/-- `inv`, `div`, `sqrt`, `red` (R54). -/
def inverseRows : List Row := [
  ⟨0x1B, 0, .da .invFq⟩, ⟨0x1B, 1, .da .invFr⟩, ⟨0x1B, 2, .da .invFq2⟩, ⟨0x1B, 3, .da .invFq6⟩,
  ⟨0x1B, 4, .da .invFq12⟩, ⟨0x1C, 0, .dab .divFq⟩, ⟨0x1C, 1, .dab .divFr⟩, ⟨0x1C, 2, .dab .divFq2⟩,
  ⟨0x1C, 3, .dab .divFq6⟩, ⟨0x1C, 4, .dab .divFq12⟩, ⟨0x21, 0, .da .sqrtFq⟩, ⟨0x21, 1, .da .sqrtFr⟩,
  ⟨0x22, 0, .da .redFq⟩, ⟨0x22, 1, .da .redFr⟩]

/-- `frob`, `mulnr`, `mul01`, `mul014`, `mul034`, `cycsqr`, `cycexp` (R54). -/
def towerRows : List Row := [
  ⟨0x28, 2, .dai .frobFq2⟩, ⟨0x28, 3, .dai .frobFq6⟩, ⟨0x28, 4, .dai .frobFq12⟩, ⟨0x29, 0, .da .mulnrFq⟩,
  ⟨0x29, 2, .da .mulnrFq2⟩, ⟨0x29, 3, .da .mulnrFq6⟩, ⟨0x2A, 3, .dab .mul01Fq6⟩, ⟨0x2B, 4, .dab .mul014Fq12⟩,
  ⟨0x2C, 4, .dab .mul034Fq12⟩, ⟨0x2D, 4, .da .cycsqrFq12⟩, ⟨0x2E, 4, .dab .cycexpFq12⟩]

/-- The curve commands, `ty = 5` (R54). -/
def curveRows : List Row := [
  ⟨0x40, 5, .d .pzero⟩, ⟨0x41, 5, .a .pisz⟩, ⟨0x42, 5, .a .aisz⟩, ⟨0x43, 5, .da .pdbl⟩, ⟨0x44, 5, .dab .padd⟩,
  ⟨0x45, 5, .dab .paddm⟩, ⟨0x46, 5, .da .aneg⟩, ⟨0x47, 5, .ab .peq⟩, ⟨0x48, 5, .da .a2p⟩, ⟨0x49, 5, .da .p2a⟩,
  ⟨0x4A, 5, .di .bnorm⟩, ⟨0x4B, 5, .d .pgen⟩, ⟨0x4C, 5, .d .cof⟩, ⟨0x4D, 5, .das .pdec⟩, ⟨0x4E, 5, .dab .pmuln⟩,
  ⟨0x4F, 5, .dab .pmul⟩]

/-- The complete command set, 115 rows (R54). -/
def opcodeTable : List Row :=
  systemRows ++ constantRows ++ predicateRows ++ adderRows ++ multiplierRows ++ inverseRows ++ towerRows ++ curveRows

/-! ### Decoding -/

/-- Why a word is illegal (R55, 60_exceptions.md R333). All of them fault `ILLEGAL`; nothing else depends on the name. -/
inductive DecodeError where
  /-- The pair (`op`, `ty`) is no row of R54. -/
  | unknownPair
  /-- `z0` or `z1` is not 0. -/
  | reservedBit
  /-- A field the row does not use is not 0. -/
  | unusedField
  /-- `pdec` with `imm[15:1]` not 0. -/
  | signSelector
deriving DecidableEq, Repr

/-- The command a row makes of the fields, if every field it does not use is 0 (R52, R55). -/
def Shape.read (f : Fields) : Shape → Except DecodeError Instr
  | .n mk => if f.rd = 0 ∧ f.ra = 0 ∧ f.rb = 0 ∧ f.imm = 0 then .ok mk else .error .unusedField
  | .d mk => if f.ra = 0 ∧ f.rb = 0 ∧ f.imm = 0 then .ok (mk f.rd) else .error .unusedField
  | .a mk => if f.rd = 0 ∧ f.rb = 0 ∧ f.imm = 0 then .ok (mk f.ra) else .error .unusedField
  | .ab mk => if f.rd = 0 ∧ f.imm = 0 then .ok (mk f.ra f.rb) else .error .unusedField
  | .da mk => if f.rb = 0 ∧ f.imm = 0 then .ok (mk f.rd f.ra) else .error .unusedField
  | .dab mk => if f.imm = 0 then .ok (mk f.rd f.ra f.rb) else .error .unusedField
  | .di mk => if f.ra = 0 ∧ f.rb = 0 then .ok (mk f.rd f.imm) else .error .unusedField
  | .dai mk => if f.rb = 0 then .ok (mk f.rd f.ra f.imm) else .error .unusedField
  | .dabi mk => .ok (mk f.rd f.ra f.rb f.imm)
  | .das mk =>
    if f.rb = 0 then
      if f.imm.toNat ≤ 1 then .ok (mk f.rd f.ra f.imm) else .error .signSelector
    else .error .unusedField

/-- The row of a pair (`op`, `ty`) (R54). -/
def findRow (op : BitVec 8) (ty : BitVec 4) : Option Row :=
  opcodeTable.find? fun r => r.op == op && r.ty == ty

/-- Decoding from the fields (R55). -/
def decodeFields (f : Fields) : Except DecodeError Instr :=
  match findRow f.op f.ty with
  | none => .error .unknownPair
  | some row => if f.z0 = 0 ∧ f.z1 = 0 then row.shape.read f else .error .reservedBit

/-- Decoding, total on 64-bit words (R55). -/
def decode (w : CmdWord) : Except DecodeError Instr := decodeFields (unpackWord w)

/-- The decoder on a word as spec/opcode_table.json numbers its bits. There is one command length, 64 bits, and the word
crosses the port whole (R56, 20_memory.md R34): bits beyond 64 make no command. -/
def decodeTableWord (nbits w : Nat) : Option Instr :=
  if w % 2 ^ nbits < 2 ^ 64 then (decode (BitVec.ofNat 64 (w % 2 ^ nbits))).toOption else none

/-! ### Encoding -/

/-- `word = op | ty<<8 | rd<<16 | ra<<24 | rb<<32 | imm<<48`, with `z0 = z1 = 0` (R50). -/
def commandFields (op : BitVec 8) (ty : BitVec 4) (rd ra rb : CellIdx) (imm : Imm) : Fields :=
  ⟨op, ty, 0, rd, ra, rb, 0, imm⟩

/-- The fields of a command (R54). -/
def instrFields : Instr → Fields
  | .nop => commandFields 0x00 15 0 0 0 0
  | .ld rd => commandFields 0x01 15 rd 0 0 0
  | .st ra => commandFields 0x02 15 0 ra 0 0
  | .mov rd ra n => commandFields 0x03 15 rd ra 0 n
  | .ldi rd imm => commandFields 0x04 15 rd 0 0 imm
  | .zeroFq rd => commandFields 0x10 0 rd 0 0 0
  | .zeroFr rd => commandFields 0x10 1 rd 0 0 0
  | .zeroFq2 rd => commandFields 0x10 2 rd 0 0 0
  | .zeroFq6 rd => commandFields 0x10 3 rd 0 0 0
  | .zeroFq12 rd => commandFields 0x10 4 rd 0 0 0
  | .oneFq rd => commandFields 0x11 0 rd 0 0 0
  | .oneFr rd => commandFields 0x11 1 rd 0 0 0
  | .oneFq2 rd => commandFields 0x11 2 rd 0 0 0
  | .oneFq6 rd => commandFields 0x11 3 rd 0 0 0
  | .oneFq12 rd => commandFields 0x11 4 rd 0 0 0
  | .iszFq ra => commandFields 0x12 0 0 ra 0 0
  | .iszFr ra => commandFields 0x12 1 0 ra 0 0
  | .iszFq2 ra => commandFields 0x12 2 0 ra 0 0
  | .iszFq6 ra => commandFields 0x12 3 0 ra 0 0
  | .iszFq12 ra => commandFields 0x12 4 0 ra 0 0
  | .isoneFq ra => commandFields 0x13 0 0 ra 0 0
  | .isoneFr ra => commandFields 0x13 1 0 ra 0 0
  | .isoneFq2 ra => commandFields 0x13 2 0 ra 0 0
  | .isoneFq6 ra => commandFields 0x13 3 0 ra 0 0
  | .isoneFq12 ra => commandFields 0x13 4 0 ra 0 0
  | .eqFq ra rb => commandFields 0x14 0 0 ra rb 0
  | .eqFr ra rb => commandFields 0x14 1 0 ra rb 0
  | .eqFq2 ra rb => commandFields 0x14 2 0 ra rb 0
  | .eqFq6 ra rb => commandFields 0x14 3 0 ra rb 0
  | .eqFq12 ra rb => commandFields 0x14 4 0 ra rb 0
  | .addFq rd ra rb => commandFields 0x15 0 rd ra rb 0
  | .addFr rd ra rb => commandFields 0x15 1 rd ra rb 0
  | .addFq2 rd ra rb => commandFields 0x15 2 rd ra rb 0
  | .addFq6 rd ra rb => commandFields 0x15 3 rd ra rb 0
  | .addFq12 rd ra rb => commandFields 0x15 4 rd ra rb 0
  | .subFq rd ra rb => commandFields 0x16 0 rd ra rb 0
  | .subFr rd ra rb => commandFields 0x16 1 rd ra rb 0
  | .subFq2 rd ra rb => commandFields 0x16 2 rd ra rb 0
  | .subFq6 rd ra rb => commandFields 0x16 3 rd ra rb 0
  | .subFq12 rd ra rb => commandFields 0x16 4 rd ra rb 0
  | .mulFq rd ra rb => commandFields 0x17 0 rd ra rb 0
  | .mulFr rd ra rb => commandFields 0x17 1 rd ra rb 0
  | .mulFq2 rd ra rb => commandFields 0x17 2 rd ra rb 0
  | .mulFq6 rd ra rb => commandFields 0x17 3 rd ra rb 0
  | .mulFq12 rd ra rb => commandFields 0x17 4 rd ra rb 0
  | .negFq rd ra => commandFields 0x18 0 rd ra 0 0
  | .negFr rd ra => commandFields 0x18 1 rd ra 0 0
  | .negFq2 rd ra => commandFields 0x18 2 rd ra 0 0
  | .negFq6 rd ra => commandFields 0x18 3 rd ra 0 0
  | .negFq12 rd ra => commandFields 0x18 4 rd ra 0 0
  | .dblFq rd ra => commandFields 0x19 0 rd ra 0 0
  | .dblFr rd ra => commandFields 0x19 1 rd ra 0 0
  | .dblFq2 rd ra => commandFields 0x19 2 rd ra 0 0
  | .dblFq6 rd ra => commandFields 0x19 3 rd ra 0 0
  | .dblFq12 rd ra => commandFields 0x19 4 rd ra 0 0
  | .sqrFq rd ra => commandFields 0x1A 0 rd ra 0 0
  | .sqrFr rd ra => commandFields 0x1A 1 rd ra 0 0
  | .sqrFq2 rd ra => commandFields 0x1A 2 rd ra 0 0
  | .sqrFq6 rd ra => commandFields 0x1A 3 rd ra 0 0
  | .sqrFq12 rd ra => commandFields 0x1A 4 rd ra 0 0
  | .invFq rd ra => commandFields 0x1B 0 rd ra 0 0
  | .invFr rd ra => commandFields 0x1B 1 rd ra 0 0
  | .invFq2 rd ra => commandFields 0x1B 2 rd ra 0 0
  | .invFq6 rd ra => commandFields 0x1B 3 rd ra 0 0
  | .invFq12 rd ra => commandFields 0x1B 4 rd ra 0 0
  | .divFq rd ra rb => commandFields 0x1C 0 rd ra rb 0
  | .divFr rd ra rb => commandFields 0x1C 1 rd ra rb 0
  | .divFq2 rd ra rb => commandFields 0x1C 2 rd ra rb 0
  | .divFq6 rd ra rb => commandFields 0x1C 3 rd ra rb 0
  | .divFq12 rd ra rb => commandFields 0x1C 4 rd ra rb 0
  | .powFq rd ra rb => commandFields 0x1D 0 rd ra rb 0
  | .powFr rd ra rb => commandFields 0x1D 1 rd ra rb 0
  | .powFq2 rd ra rb => commandFields 0x1D 2 rd ra rb 0
  | .powFq6 rd ra rb => commandFields 0x1D 3 rd ra rb 0
  | .powFq12 rd ra rb => commandFields 0x1D 4 rd ra rb 0
  | .sopFq rd ra rb n => commandFields 0x1E 0 rd ra rb n
  | .sopFr rd ra rb n => commandFields 0x1E 1 rd ra rb n
  | .sopFq2 rd ra rb n => commandFields 0x1E 2 rd ra rb n
  | .sopFq6 rd ra rb n => commandFields 0x1E 3 rd ra rb n
  | .sopFq12 rd ra rb n => commandFields 0x1E 4 rd ra rb n
  | .charFq rd => commandFields 0x1F 0 rd 0 0 0
  | .charFr rd => commandFields 0x1F 1 rd 0 0 0
  | .legFq ra => commandFields 0x20 0 0 ra 0 0
  | .legFr ra => commandFields 0x20 1 0 ra 0 0
  | .sqrtFq rd ra => commandFields 0x21 0 rd ra 0 0
  | .sqrtFr rd ra => commandFields 0x21 1 rd ra 0 0
  | .redFq rd ra => commandFields 0x22 0 rd ra 0 0
  | .redFr rd ra => commandFields 0x22 1 rd ra 0 0
  | .frobFq2 rd ra k => commandFields 0x28 2 rd ra 0 k
  | .frobFq6 rd ra k => commandFields 0x28 3 rd ra 0 k
  | .frobFq12 rd ra k => commandFields 0x28 4 rd ra 0 k
  | .mulnrFq rd ra => commandFields 0x29 0 rd ra 0 0
  | .mulnrFq2 rd ra => commandFields 0x29 2 rd ra 0 0
  | .mulnrFq6 rd ra => commandFields 0x29 3 rd ra 0 0
  | .mul01Fq6 rd ra rb => commandFields 0x2A 3 rd ra rb 0
  | .mul014Fq12 rd ra rb => commandFields 0x2B 4 rd ra rb 0
  | .mul034Fq12 rd ra rb => commandFields 0x2C 4 rd ra rb 0
  | .cycsqrFq12 rd ra => commandFields 0x2D 4 rd ra 0 0
  | .cycexpFq12 rd ra rb => commandFields 0x2E 4 rd ra rb 0
  | .pzero rd => commandFields 0x40 5 rd 0 0 0
  | .pisz ra => commandFields 0x41 5 0 ra 0 0
  | .aisz ra => commandFields 0x42 5 0 ra 0 0
  | .pdbl rd ra => commandFields 0x43 5 rd ra 0 0
  | .padd rd ra rb => commandFields 0x44 5 rd ra rb 0
  | .paddm rd ra rb => commandFields 0x45 5 rd ra rb 0
  | .aneg rd ra => commandFields 0x46 5 rd ra 0 0
  | .peq ra rb => commandFields 0x47 5 0 ra rb 0
  | .a2p rd ra => commandFields 0x48 5 rd ra 0 0
  | .p2a rd ra => commandFields 0x49 5 rd ra 0 0
  | .bnorm rd n => commandFields 0x4A 5 rd 0 0 n
  | .pgen rd => commandFields 0x4B 5 rd 0 0 0
  | .cof rd => commandFields 0x4C 5 rd 0 0 0
  | .pdec rd ra sign => commandFields 0x4D 5 rd ra 0 sign
  | .pmuln rd ra rb => commandFields 0x4E 5 rd ra rb 0
  | .pmul rd ra rb => commandFields 0x4F 5 rd ra rb 0

/-- The word of a command (R50, R54); the one word that decodes to it, if it is well formed (R55). -/
def encode (i : Instr) : CmdWord := packWord (instrFields i)

end Sys2Proof
end

