-- ==== Sys2Proof/Config/Params.lean ====
section
/-! DEFINITION. The parameter record `Params` of the block (00_scope.md R6): which constants exist. Their values
are open (92_eei_decisions.md D2); `Sys2Proof/Config.lean` holds the one record the machine runs on. -/

namespace Sys2Proof

/-- The constants of one prime field (00_scope.md R6): the source gives `Fq` and `Fr` one capability surface
"parameterized by `MODULUS`, `GENERATOR`, `TWO_ADICITY`, `POWERS_OF_G`" (41_prime_field.md R100). -/
structure PrimeParams where
  /-- `MODULUS`. -/
  modulus : Nat
  /-- `GENERATOR`, a quadratic non-residue. -/
  generator : Nat
  /-- `TWO_ADICITY`, written `n`. -/
  twoAdicity : Nat
  /-- `T`, odd, with `MODULUS − 1 = 2^n · T`. -/
  t : Nat
  /-- `POWERS_OF_G`, entry `j` is `g^(2^j)`, `0 ≤ j ≤ n − 2` (47_sqrt.md R301). -/
  powersOfG : List Nat
deriving DecidableEq, Repr

/-- What `glv_decompose` returns: two magnitudes and two signs, `true` for negative (46_scalar_mul.md R281). -/
structure GlvSplit where
  k1 : Nat
  k2 : Nat
  s1 : Bool
  s2 : Bool
deriving DecidableEq, Repr

/-- The parameter record (00_scope.md R6). `LIMBW = 64`, `NCELL = 256`, `CMDW = 64` and `WINDOW = 4` are the same
for every record and stand as numbers in the definitions that use them. -/
structure Params where
  /-- `W`, the width in bits of one cell. -/
  width : Nat
  /-- The constants of the base field `Fq`. -/
  fq : PrimeParams
  /-- The constants of the scalar field `Fr`. -/
  fr : PrimeParams
  /-- `NONRES2`, written `β`. -/
  nonres2 : Nat
  /-- `NONRES6`, written `ξ`. -/
  nonres6 : Fq2
  /-- `NONRES12`, written `γ`. -/
  nonres12 : Fq6
  /-- `FROB2`, 2 entries. -/
  frob2 : List Nat
  /-- `FROB6_C1`, 6 entries. -/
  frob6c1 : List Fq2
  /-- `FROB6_C2`, 6 entries. -/
  frob6c2 : List Fq2
  /-- `FROB12_C1`, 12 entries. -/
  frob12c1 : List Fq6
  /-- `COEFF_A`. -/
  coeffA : Nat
  /-- `COEFF_B`. -/
  coeffB : Nat
  /-- `COFACTOR`. -/
  cofactor : Nat
  /-- `GEN_X`. -/
  genX : Nat
  /-- `GEN_Y`. -/
  genY : Nat
  /-- `ENDO_BETA`. -/
  endoBeta : Nat
  /-- `LAMBDA`, written `λ`. -/
  lambda : Nat
  /-- `Q1`, read by `glv_decompose` alone. -/
  q1 : Nat
  /-- `Q2`, read by `glv_decompose` alone. -/
  q2 : Nat
  /-- `B1`, read by `glv_decompose` alone. -/
  b1 : Nat
  /-- `B2`, read by `glv_decompose` alone. -/
  b2 : Nat
  /-- `R128`, read by `glv_decompose` alone. -/
  r128 : Nat
  /-- `HALF_R`, read by `glv_decompose` alone. -/
  halfR : Nat
  /-- `glv_decompose`, a configuration function (46_scalar_mul.md R281). -/
  glvDecompose : Nat → GlvSplit

/-- `MODULUS_Q`, written `q`. -/
abbrev Params.q (p : Params) : Nat := p.fq.modulus

/-- `MODULUS_R`, written `r`. -/
abbrev Params.r (p : Params) : Nat := p.fr.modulus

/-- `LIMBS = W / 64`. -/
def Params.limbs (p : Params) : Nat := p.width / 64

end Sys2Proof
end

