-- ==== Sys2Proof/Machine/PrimeArith.lean ====
section
/-! DEFINITION. The value functions of the prime fields: the modular adder, multiplier and inverse, the
square-and-multiply loop and the Legendre symbol (41_prime_field.md R101, R107 to R118). They are pure functions on
canonical representatives; the commands that use them are in `Machine/PrimeFieldCommands.lean`. -/

namespace Sys2Proof.Machine

/-- The sum in `Z/m` (R107: "The result is `(a + b) mod m`"). -/
def addMod (m a b : Nat) : Nat := (a + b) % m

/-- The difference in `Z/m` (R108: `m` is added back before subtracting). -/
def subMod (m a b : Nat) : Nat := (a + m - b) % m

/-- The negative in `Z/m` (R110: `neg 0 = 0`, not `m`). -/
def negMod (m a : Nat) : Nat := (m - a) % m

/-- The double in `Z/m` (R111). -/
def dblMod (m a : Nat) : Nat := addMod m a a

/-- The product in `Z/m` (R109). -/
def mulMod (m a b : Nat) : Nat := a * b % m

/-- The square in `Z/m` (R112). -/
def sqrMod (m a : Nat) : Nat := mulMod m a a

/-- The loop body of R115 for the bits `i − 1` down to 0 of `e`. -/
def powLoop {α : Type} (mul : α → α → α) (a : α) (e : Nat) : Nat → α → α
  | 0, res => res
  | i + 1, res => powLoop mul a e i (if e.testBit i then mul (mul res res) a else mul res res)

/-- Square-and-multiply exponentiation, most significant bit first, skipping leading zero bits (R115). -/
def powBy {α : Type} (mul : α → α → α) (one a : α) (e : Nat) : α :=
  powLoop mul a e (bitLen e) one

/-- `a^e` in `Z/m` (R115). -/
def powMod (m a e : Nat) : Nat := powBy (mulMod m) 1 a e

/-- The inverse in `Z/m`, `none` for 0 (R113). R4 leaves the algorithm open; for the prime `m` of a well-formed
record `a^(m−2)` is the unique inverse. -/
def invMod (m a : Nat) : Option Nat :=
  if a = 0 then none else some (powMod m a (m - 2))

/-- The Legendre class: `a^((m−1)/2)` compared to 0, 1, or neither (R118). -/
def legendre (m a : Nat) : Legendre :=
  let s := powMod m a ((m - 1) / 2)
  if s = 0 then .zero else if s = 1 then .residue else .nonResidue

/-- `Σ_j as_j · bs_j` from the first product to the last (R116, R156, R171, R186). -/
def sumOfProducts {α : Type} (zero : α) (add mul : α → α → α) (as bs : List α) : α :=
  (as.zip bs).foldl (fun acc ab => add acc (mul ab.1 ab.2)) zero

end Sys2Proof.Machine
end

