-- ==== Sys2Proof/Machine/CurveArith.lean ====
section
/-! DEFINITION. The value functions of the curve group in affine and Jacobian coordinates (44_curve_group.md R230
to R241), of batch normalization (45_batch_normalization.md R271, R272), and the chord-and-tangent group law on
affine points that gives `pt` and `k·P` their meaning in R7 WF6, WF7 and R288. -/

namespace Sys2Proof.Machine

/-- The identity triple `(0, 1, 0)` (R232). -/
def jacIdentity : Jacobian := ⟨0, 1, 0⟩

/-- The affine identity as every command writes it, `(0, 1, 1)` (10_state.md R13). -/
def affIdentity : Affine := ⟨0, 1, 1⟩

/-- Doubling (R235). -/
def jacDouble (p : Params) (P : Jacobian) : Jacobian :=
  if P.z = 0 then P
  else
    let m := p.q
    let yy := sqrMod m P.y
    let s := mulMod m 4 (mulMod m P.x yy)
    let mm := addMod m (mulMod m 3 (sqrMod m P.x)) (mulMod m p.coeffA (sqrMod m (sqrMod m P.z)))
    let x3 := subMod m (sqrMod m mm) (dblMod m s)
    ⟨x3, subMod m (mulMod m mm (subMod m s x3)) (mulMod m 8 (sqrMod m yy)), mulMod m 2 (mulMod m P.y P.z)⟩

/-- Full addition (R236): the identity operands first, then equal points to doubling, then the general body. -/
def jacAdd (p : Params) (P Q : Jacobian) : Jacobian :=
  if P.z = 0 then Q
  else if Q.z = 0 then P
  else
    let m := p.q
    let z1z1 := sqrMod m P.z
    let z2z2 := sqrMod m Q.z
    let u1 := mulMod m P.x z2z2
    let u2 := mulMod m Q.x z1z1
    let s1 := mulMod m (mulMod m P.y Q.z) z2z2
    let s2 := mulMod m (mulMod m Q.y P.z) z1z1
    if u1 = u2 ∧ s1 = s2 then jacDouble p P
    else
      let h := subMod m u2 u1
      let i := sqrMod m (mulMod m 2 h)
      let j := mulMod m h i
      let r := mulMod m 2 (subMod m s2 s1)
      let v := mulMod m u1 i
      let x3 := subMod m (subMod m (sqrMod m r) j) (mulMod m 2 v)
      ⟨x3,
       subMod m (mulMod m r (subMod m v x3)) (mulMod m (mulMod m 2 s1) j),
       mulMod m (subMod m (subMod m (sqrMod m (addMod m P.z Q.z)) z1z1) z2z2) h⟩

/-- Mixed addition (R237). -/
def jacAddMixed (p : Params) (P : Jacobian) (Q : Affine) : Jacobian :=
  if Q.inf = 1 then P
  else if P.z = 0 then ⟨Q.x, Q.y, 1⟩
  else
    let m := p.q
    let z1z1 := sqrMod m P.z
    let u2 := mulMod m Q.x z1z1
    let s2 := mulMod m (mulMod m Q.y P.z) z1z1
    if u2 = P.x ∧ s2 = P.y then jacDouble p P
    else
      let h := subMod m u2 P.x
      let hh := sqrMod m h
      let i := mulMod m 4 hh
      let j := mulMod m h i
      let r := mulMod m 2 (subMod m s2 P.y)
      let v := mulMod m P.x i
      let x3 := subMod m (subMod m (sqrMod m r) j) (mulMod m 2 v)
      ⟨x3,
       subMod m (mulMod m r (subMod m v x3)) (mulMod m (mulMod m 2 P.y) j),
       subMod m (subMod m (sqrMod m (addMod m P.z h)) z1z1) hh⟩

/-- Affine negation (R238, 90_conflicts.md C9). -/
def affNeg (p : Params) (P : Affine) : Affine :=
  if P.inf = 1 then affIdentity else ⟨P.x, negMod p.q P.y, 0⟩

/-- Equality of projective points by cross-multiplication, the identity first (R239). -/
def jacEq (p : Params) (P Q : Jacobian) : Bool :=
  let m := p.q
  if P.z = 0 then decide (Q.z = 0)
  else if Q.z = 0 then false
  else
    decide (mulMod m P.x (sqrMod m Q.z) = mulMod m Q.x (sqrMod m P.z)) &&
    decide (mulMod m P.y (mulMod m Q.z (sqrMod m Q.z)) = mulMod m Q.y (mulMod m P.z (sqrMod m P.z)))

/-- Affine to projective (R240). -/
def toJacobian (P : Affine) : Jacobian :=
  if P.inf = 1 then jacIdentity else ⟨P.x, P.y, 1⟩

/-- `(X·zi², Y·zi³)` with `zi = Z⁻¹`, for `Z ≠ 0` (R241, R271). -/
def normalizedXY (p : Params) (P : Jacobian) : Nat × Nat :=
  let m := p.q
  let zi := (invMod m P.z).getD 0
  let zi2 := sqrMod m zi
  (mulMod m P.x zi2, mulMod m P.y (mulMod m zi zi2))

/-- Projective to affine (R241). -/
def toAffine (p : Params) (P : Jacobian) : Affine :=
  if P.z = 0 then affIdentity
  else if P.z = 1 then ⟨P.x, P.y, 0⟩
  else let xy := normalizedXY p P; ⟨xy.1, xy.2, 0⟩

/-! ### Batch normalization -/

/-- One point of `BatchNormalize` (R271). -/
def normalizePoint (p : Params) (P : Jacobian) : Jacobian :=
  if P.z = 0 ∨ P.z = 1 then P
  else let xy := normalizedXY p P; ⟨xy.1, xy.2, 1⟩

/-- The result function `BatchNormalize` (R271): each point by its own inverse, to which R272 is equal. -/
def batchNormalize (p : Params) (ps : List Jacobian) : List Jacobian := ps.map (normalizePoint p)

/-- The prefix products of R272 over the list of the non-normalized `Z`s, starting from `tmp`. -/
def prefixProducts (m : Nat) : Nat → List Nat → List Nat
  | _, [] => []
  | tmp, z :: zs => mulMod m tmp z :: prefixProducts m (mulMod m tmp z) zs

/-- The backward pass of R272 over the pairs `(Z_{i_t}, prod_{t−1})`, last pair first, from the one inverse `tmp`;
the answer lists the inverses, last first. -/
def backwardPass (m : Nat) : Nat → List (Nat × Nat) → List Nat
  | _, [] => []
  | tmp, (z, before) :: rest => mulMod m tmp before :: backwardPass m (mulMod m tmp z) rest

/-- Montgomery's trick (R272): the inverses of the `Z`s from one inversion of their product. -/
def sharedInverses (m : Nat) (zs : List Nat) : List Nat :=
  let prods := prefixProducts m 1 zs
  let last := prods.getLastD 1
  (backwardPass m ((invMod m last).getD 0) (zs.zip (1 :: prods)).reverse).reverse

/-- Scale the non-normalized points by the inverses given in order; the others pass unchanged (R271, R272). -/
def applyInverses (m : Nat) : List Jacobian → List Nat → List Jacobian
  | [], _ => []
  | P :: ps, zis =>
    if P.z = 0 ∨ P.z = 1 then P :: applyInverses m ps zis
    else
      let zi := zis.headD 0
      ⟨mulMod m P.x (sqrMod m zi), mulMod m P.y (mulMod m zi (sqrMod m zi)), 1⟩ ::
        applyInverses m ps zis.tail

/-- `BatchNormalize` by the algorithm the source prescribes, with one shared inversion (R272). -/
def batchNormalizeShared (p : Params) (ps : List Jacobian) : List Jacobian :=
  let zs := (ps.map Jacobian.z).filter fun z => !(z == 0 || z == 1)
  applyInverses p.q ps (sharedInverses p.q zs)

/-! ### The group of points -/

/-- A point of the curve: `none` is the identity `O`, `some (x, y)` a finite point (R230). -/
abbrev Point := Option (Nat × Nat)

/-- The curve equation `y² = x³ + a·x + b` (R230). -/
def onCurve (p : Params) (x y : Nat) : Bool :=
  decide (mulMod p.q y y =
    addMod p.q (addMod p.q (mulMod p.q (mulMod p.q x x) x) (mulMod p.q p.coeffA x)) p.coeffB)

/-- The slope of the chord or the tangent through two points that are not opposite. -/
def slope (p : Params) (x1 y1 x2 y2 : Nat) : Nat :=
  let m := p.q
  if x1 = x2 then
    mulMod m (addMod m (mulMod m 3 (mulMod m x1 x1)) p.coeffA) ((invMod m (addMod m y1 y1)).getD 0)
  else mulMod m (subMod m y2 y1) ((invMod m (subMod m x2 x1)).getD 0)

/-- The chord-and-tangent sum of two points of the curve. -/
def pointAdd (p : Params) : Point → Point → Point
  | none, Q => Q
  | some P, none => some P
  | some (x1, y1), some (x2, y2) =>
    let m := p.q
    if x1 = x2 ∧ addMod m y1 y2 = 0 then none
    else
      let l := slope p x1 y1 x2 y2
      let x3 := subMod m (subMod m (mulMod m l l) x1) x2
      some (x3, subMod m (mulMod m l (subMod m x1 x3)) y1)

/-- `k·P`. -/
def pointMul (p : Params) (P : Point) : Nat → Point
  | 0 => none
  | k + 1 => pointAdd p (pointMul p P k) P

/-- The point a Jacobian triple stands for, `pt(X, Y, Z)` (R230). -/
def jacPoint (p : Params) (P : Jacobian) : Point :=
  if P.z = 0 then none else some (normalizedXY p P)

/-- The point an affine triple stands for (R230). -/
def affPoint (P : Affine) : Point :=
  if P.inf = 1 then none else some (P.x, P.y)

end Sys2Proof.Machine
end

