-- ==== Sys2Proof/Machine/TowerArith.lean ====
section
/-! DEFINITION. The value functions of the tower `Fq2 ⊂ Fq6 ⊂ Fq12` (42_extension_tower.md R140 to R186), of the
Frobenius map, of the multiplication by the non-residue and of the sparse operands
(43_frobenius_sparse_cyclotomic.md R201 to R211). Every formula is the one the rule writes. -/

namespace Sys2Proof.Machine

/-! ### Fq2 (R142 to R156) -/

/-- The zero of `Fq2` (R142). -/
def fq2Zero : Fq2 := ⟨0, 0⟩

/-- The one of `Fq2` (R143). -/
def fq2One : Fq2 := ⟨1, 0⟩

/-- The sum in `Fq2` (R147). -/
def fq2Add (p : Params) (a b : Fq2) : Fq2 := ⟨addMod p.q a.c0 b.c0, addMod p.q a.c1 b.c1⟩

/-- The difference in `Fq2` (R148). -/
def fq2Sub (p : Params) (a b : Fq2) : Fq2 := ⟨subMod p.q a.c0 b.c0, subMod p.q a.c1 b.c1⟩

/-- The negative in `Fq2` (R150). -/
def fq2Neg (p : Params) (a : Fq2) : Fq2 := ⟨negMod p.q a.c0, negMod p.q a.c1⟩

/-- The double in `Fq2` (R151). -/
def fq2Dbl (p : Params) (a : Fq2) : Fq2 := ⟨dblMod p.q a.c0, dblMod p.q a.c1⟩

/-- The product in `Fq[u]/(u² − β)` (R149). -/
def fq2Mul (p : Params) (a b : Fq2) : Fq2 :=
  ⟨addMod p.q (mulMod p.q a.c0 b.c0) (mulMod p.q p.nonres2 (mulMod p.q a.c1 b.c1)),
   addMod p.q (mulMod p.q a.c0 b.c1) (mulMod p.q a.c1 b.c0)⟩

/-- The square in `Fq2` (R152). -/
def fq2Sqr (p : Params) (a : Fq2) : Fq2 :=
  ⟨addMod p.q (sqrMod p.q a.c0) (mulMod p.q p.nonres2 (sqrMod p.q a.c1)),
   dblMod p.q (mulMod p.q a.c0 a.c1)⟩

/-- An `Fq2` element scaled by an `Fq` element. -/
def fq2Scale (p : Params) (a : Fq2) (k : Nat) : Fq2 := ⟨mulMod p.q a.c0 k, mulMod p.q a.c1 k⟩

/-- The inverse in `Fq2` by the norm `n = a0² − β·a1²`, `none` for zero (R153). -/
def fq2Inv (p : Params) (a : Fq2) : Option Fq2 :=
  if a = fq2Zero then none
  else
    (invMod p.q (subMod p.q (sqrMod p.q a.c0) (mulMod p.q p.nonres2 (sqrMod p.q a.c1)))).map fun t =>
      ⟨mulMod p.q a.c0 t, negMod p.q (mulMod p.q a.c1 t)⟩

/-- `a^e` in `Fq2` (R155). -/
def fq2Pow (p : Params) (a : Fq2) (e : Nat) : Fq2 := powBy (fq2Mul p) fq2One a e

/-! ### Fq6 (R157 to R171) -/

/-- The zero of `Fq6` (R157). -/
def fq6Zero : Fq6 := ⟨fq2Zero, fq2Zero, fq2Zero⟩

/-- The one of `Fq6` (R158). -/
def fq6One : Fq6 := ⟨fq2One, fq2Zero, fq2Zero⟩

/-- The sum in `Fq6` (R162). -/
def fq6Add (p : Params) (a b : Fq6) : Fq6 :=
  ⟨fq2Add p a.c0 b.c0, fq2Add p a.c1 b.c1, fq2Add p a.c2 b.c2⟩

/-- The difference in `Fq6` (R163). -/
def fq6Sub (p : Params) (a b : Fq6) : Fq6 :=
  ⟨fq2Sub p a.c0 b.c0, fq2Sub p a.c1 b.c1, fq2Sub p a.c2 b.c2⟩

/-- The negative in `Fq6` (R165). -/
def fq6Neg (p : Params) (a : Fq6) : Fq6 := ⟨fq2Neg p a.c0, fq2Neg p a.c1, fq2Neg p a.c2⟩

/-- The double in `Fq6` (R166). -/
def fq6Dbl (p : Params) (a : Fq6) : Fq6 := ⟨fq2Dbl p a.c0, fq2Dbl p a.c1, fq2Dbl p a.c2⟩

/-- The product in `Fq2[v]/(v³ − ξ)` (R164). -/
def fq6Mul (p : Params) (a b : Fq6) : Fq6 :=
  ⟨fq2Add p (fq2Mul p a.c0 b.c0)
      (fq2Mul p p.nonres6 (fq2Add p (fq2Mul p a.c1 b.c2) (fq2Mul p a.c2 b.c1))),
   fq2Add p (fq2Add p (fq2Mul p a.c0 b.c1) (fq2Mul p a.c1 b.c0))
      (fq2Mul p p.nonres6 (fq2Mul p a.c2 b.c2)),
   fq2Add p (fq2Add p (fq2Mul p a.c0 b.c2) (fq2Mul p a.c1 b.c1)) (fq2Mul p a.c2 b.c0)⟩

/-- The square in `Fq6`: the value of the product with `b = a` (R167). -/
def fq6Sqr (p : Params) (a : Fq6) : Fq6 := fq6Mul p a a

/-- An `Fq6` element scaled by an `Fq2` element. -/
def fq6Scale (p : Params) (a : Fq6) (k : Fq2) : Fq6 :=
  ⟨fq2Mul p a.c0 k, fq2Mul p a.c1 k, fq2Mul p a.c2 k⟩

/-- The cofactors `(t0, t1, t2)` of R168. -/
def fq6Cofactors (p : Params) (a : Fq6) : Fq6 :=
  ⟨fq2Sub p (fq2Sqr p a.c0) (fq2Mul p p.nonres6 (fq2Mul p a.c1 a.c2)),
   fq2Sub p (fq2Mul p p.nonres6 (fq2Sqr p a.c2)) (fq2Mul p a.c0 a.c1),
   fq2Sub p (fq2Sqr p a.c1) (fq2Mul p a.c0 a.c2)⟩

/-- The norm to `Fq2`, `n = a0·t0 + ξ·(a2·t1 + a1·t2)` (R168). -/
def fq6Norm (p : Params) (a : Fq6) : Fq2 :=
  let t := fq6Cofactors p a
  fq2Add p (fq2Mul p a.c0 t.c0)
    (fq2Mul p p.nonres6 (fq2Add p (fq2Mul p a.c2 t.c1) (fq2Mul p a.c1 t.c2)))

/-- The inverse in `Fq6`, `none` for zero (R168). -/
def fq6Inv (p : Params) (a : Fq6) : Option Fq6 :=
  if a = fq6Zero then none
  else (fq2Inv p (fq6Norm p a)).map fun s => fq6Scale p (fq6Cofactors p a) s

/-- `a^e` in `Fq6` (R170). -/
def fq6Pow (p : Params) (a : Fq6) (e : Nat) : Fq6 := powBy (fq6Mul p) fq6One a e

/-! ### Fq12 (R172 to R186) -/

/-- The zero of `Fq12` (R172). -/
def fq12Zero : Fq12 := ⟨fq6Zero, fq6Zero⟩

/-- The one of `Fq12` (R173). -/
def fq12One : Fq12 := ⟨fq6One, fq6Zero⟩

/-- The sum in `Fq12` (R177). -/
def fq12Add (p : Params) (a b : Fq12) : Fq12 := ⟨fq6Add p a.c0 b.c0, fq6Add p a.c1 b.c1⟩

/-- The difference in `Fq12` (R178). -/
def fq12Sub (p : Params) (a b : Fq12) : Fq12 := ⟨fq6Sub p a.c0 b.c0, fq6Sub p a.c1 b.c1⟩

/-- The negative in `Fq12` (R180). -/
def fq12Neg (p : Params) (a : Fq12) : Fq12 := ⟨fq6Neg p a.c0, fq6Neg p a.c1⟩

/-- The double in `Fq12` (R181). -/
def fq12Dbl (p : Params) (a : Fq12) : Fq12 := ⟨fq6Dbl p a.c0, fq6Dbl p a.c1⟩

/-- The product in `Fq6[w]/(w² − γ)` (R179). -/
def fq12Mul (p : Params) (a b : Fq12) : Fq12 :=
  ⟨fq6Add p (fq6Mul p a.c0 b.c0) (fq6Mul p p.nonres12 (fq6Mul p a.c1 b.c1)),
   fq6Add p (fq6Mul p a.c0 b.c1) (fq6Mul p a.c1 b.c0)⟩

/-- The square in `Fq12`: the value of the product with `b = a` (R182). -/
def fq12Sqr (p : Params) (a : Fq12) : Fq12 := fq12Mul p a a

/-- The inverse in `Fq12` by the norm `n = a0² − γ·a1²`, `none` for zero (R183, 90_conflicts.md C2). -/
def fq12Inv (p : Params) (a : Fq12) : Option Fq12 :=
  if a = fq12Zero then none
  else
    (fq6Inv p (fq6Sub p (fq6Sqr p a.c0) (fq6Mul p p.nonres12 (fq6Sqr p a.c1)))).map fun s =>
      ⟨fq6Mul p a.c0 s, fq6Neg p (fq6Mul p a.c1 s)⟩

/-- `a^e` in `Fq12` (R185). -/
def fq12Pow (p : Params) (a : Fq12) (e : Nat) : Fq12 := powBy (fq12Mul p) fq12One a e

/-! ### Frobenius map (R201 to R204) -/

/-- The map of R201 on an `Fq2` element. -/
def fq2Frob (p : Params) (k : Nat) (a : Fq2) : Fq2 :=
  ⟨a.c0, mulMod p.q a.c1 (p.frob2.getD (k % 2) 0)⟩

/-- The map of R202 on an `Fq6` element. -/
def fq6Frob (p : Params) (k : Nat) (a : Fq6) : Fq6 :=
  ⟨fq2Frob p k a.c0,
   fq2Mul p (fq2Frob p k a.c1) (p.frob6c1.getD (k % 6) fq2Zero),
   fq2Mul p (fq2Frob p k a.c2) (p.frob6c2.getD (k % 6) fq2Zero)⟩

/-- The map of R203 on an `Fq12` element. -/
def fq12Frob (p : Params) (k : Nat) (a : Fq12) : Fq12 :=
  ⟨fq6Frob p k a.c0,
   fq6Mul p (fq6Frob p k a.c1) (p.frob12c1.getD (k % 12) fq6Zero)⟩

/-! ### Multiplication by the non-residue and by a sparse operand (R205 to R211) -/

/-- `β · a` (R205). -/
def fqMulNonres (p : Params) (a : Nat) : Nat := mulMod p.q p.nonres2 a

/-- `ξ · a` (R206). -/
def fq2MulNonres (p : Params) (a : Fq2) : Fq2 := fq2Mul p p.nonres6 a

/-- `γ · a` (R207). -/
def fq6MulNonres (p : Params) (a : Fq6) : Fq6 := fq6Mul p p.nonres12 a

/-- The sparse operand `(s0, s1, 0)` of `mul_by_01` (R208). -/
def sparse01 (s0 s1 : Fq2) : Fq6 := ⟨s0, s1, fq2Zero⟩

/-- The sparse operand `((s0, s1, 0), (0, s4, 0))` of `mul_by_014` (R209). -/
def sparse014 (s0 s1 s4 : Fq2) : Fq12 := ⟨⟨s0, s1, fq2Zero⟩, ⟨fq2Zero, s4, fq2Zero⟩⟩

/-- The sparse operand `((s0, 0, 0), (s3, s4, 0))` of `mul_by_034` (R210). -/
def sparse034 (s0 s3 s4 : Fq2) : Fq12 := ⟨⟨s0, fq2Zero, fq2Zero⟩, ⟨s3, s4, fq2Zero⟩⟩

/-! ### The cyclotomic domain (R212 to R214) -/

/-- Membership of `C`, the elements with `x^r = 1` (R214, 90_conflicts.md C4). -/
def inCyclotomic (p : Params) (a : Fq12) : Bool := decide (fq12Pow p a p.r = fq12One)

end Sys2Proof.Machine
end

