-- ==== Sys2Proof/Config.lean ====
section
/-! DEFINITION. What an implementation fixes: well-formedness of a parameter record (00_scope.md R6, R7), the one
record the machine runs on, an unevaluable constant of which only well-formedness is known, and the free value of
the cyclotomic commands outside their domain (43_frobenius_sparse_cyclotomic.md R214). -/

namespace Sys2Proof

open Machine

/-- The constants of one prime field are well formed (R7 WF1, WF2, WF3, and the types of R6). -/
structure PrimeParams.WellFormed (width : Nat) (f : PrimeParams) : Prop where
  /-- WF1: the modulus is a prime … -/
  prime : Nat.Prime f.modulus
  /-- … odd … -/
  odd : f.modulus % 2 = 1
  /-- … and below `2^W`. -/
  lt_width : f.modulus < 2 ^ width
  /-- R6: `n ≥ 1`. -/
  twoAdicity_pos : 1 ≤ f.twoAdicity
  /-- WF2: `MODULUS − 1 = 2^n · T` … -/
  split : f.modulus - 1 = 2 ^ f.twoAdicity * f.t
  /-- … with `T` odd. -/
  t_odd : f.t % 2 = 1
  /-- R6: `GENERATOR` is an element of the field. -/
  generator_lt : f.generator < f.modulus
  /-- WF3: `GENERATOR` is a quadratic non-residue. -/
  nonResidue : ∀ a < f.modulus, mulMod f.modulus a a ≠ f.generator
  /-- WF3: `POWERS_OF_G[j] = g^(2^j)`, `g = GENERATOR^T`, for `0 ≤ j ≤ n − 2`. -/
  powers : f.powersOfG =
    (List.range (f.twoAdicity - 1)).map fun j => powMod f.modulus (powMod f.modulus f.generator f.t) (2 ^ j)

/-- The affine generator as a point. -/
def Params.generator (p : Params) : Point := some (p.genX, p.genY)

/-- The integer a half-scalar and its sign flag stand for, `(−1)^s · k` (46_scalar_mul.md R281). -/
def signedValue (negative : Bool) (k : Nat) : Int := if negative then -(k : Int) else (k : Int)

/-- The record is well formed (00_scope.md R7, with the types of R6). -/
structure Params.WellFormed (p : Params) : Prop where
  /-- R6: `W` is a positive multiple of 64. -/
  width_pos : 0 < p.width
  width_limbs : p.width % 64 = 0
  /-- WF1, WF2, WF3 for the base field. -/
  fq : p.fq.WellFormed p.width
  /-- WF1, WF2, WF3 for the scalar field. -/
  fr : p.fr.WellFormed p.width
  /-- WF4: `β` is an element of `Fq` and a quadratic non-residue. -/
  nonres2_lt : p.nonres2 < p.q
  nonres2_nonSquare : ∀ a < p.q, mulMod p.q a a ≠ p.nonres2
  /-- WF4: `ξ` is an element of `Fq2`, and `X³ − ξ`, being of degree 3, is irreducible: it has no root. -/
  nonres6_reduced : p.nonres6.Reduced p.q
  nonres6_nonCube : ∀ a : Fq2, a.Reduced p.q → fq2Mul p (fq2Mul p a a) a ≠ p.nonres6
  /-- WF4: `γ` is an element of `Fq6`, and `X² − γ`, being of degree 2, is irreducible: it has no root. -/
  nonres12_reduced : p.nonres12.Reduced p.q
  nonres12_nonSquare : ∀ a : Fq6, a.Reduced p.q → fq6Mul p a a ≠ p.nonres12
  /-- WF5: `q ≡ 1 (mod 3)`. -/
  q_mod_three : p.q % 3 = 1
  /-- WF5: the tables hold the values of R204. -/
  frob2 : p.frob2 = (List.range 2).map fun j => powMod p.q p.nonres2 ((p.q ^ j - 1) / 2)
  frob6c1 : p.frob6c1 = (List.range 6).map fun j => fq2Pow p p.nonres6 ((p.q ^ j - 1) / 3)
  frob6c2 : p.frob6c2 = (List.range 6).map fun j => fq2Pow p p.nonres6 ((2 * p.q ^ j - 2) / 3)
  frob12c1 : p.frob12c1 = (List.range 12).map fun j => fq6Pow p p.nonres12 ((p.q ^ j - 1) / 2)
  /-- WF6: `a` and `b` are elements of `Fq` with `4a³ + 27b² ≠ 0`. -/
  coeffA_lt : p.coeffA < p.q
  coeffB_lt : p.coeffB < p.q
  nonSingular : (4 * p.coeffA ^ 3 + 27 * p.coeffB ^ 2) % p.q ≠ 0
  /-- WF6: the generator is on the curve and has order `r` (`r` is prime and the generator is not `O`). -/
  genX_lt : p.genX < p.q
  genY_lt : p.genY < p.q
  gen_onCurve : onCurve p p.genX p.genY = true
  gen_order : pointMul p p.generator p.r = none
  /-- WF6: the curve has `COFACTOR · r` points, `O` among them. -/
  pointCount : ((List.range p.q).map fun x => (List.range p.q).countP (onCurve p x)).sum + 1 = p.cofactor * p.r
  /-- R6: `COFACTOR` is below `2^W`. -/
  cofactor_lt : p.cofactor < 2 ^ p.width
  /-- R6: `ENDO_BETA` is an element of `Fq` and `LAMBDA` one of `Fr`. -/
  endoBeta_lt : p.endoBeta < p.q
  lambda_lt : p.lambda < p.r
  /-- WF7: on the subgroup of the generator, `(ENDO_BETA · x, y)` is `λ·(x, y)`. -/
  endo : ∀ k < p.r, ∀ x y, pointMul p p.generator k = some (x, y) →
    pointMul p (some (x, y)) p.lambda = some (mulMod p.q p.endoBeta x, y)
  /-- WF8: `glv_decompose` answers naturals below `2^W` and has property `GlvSound` of R281. -/
  glv_lt : ∀ k < p.r, (p.glvDecompose k).k1 < 2 ^ p.width ∧ (p.glvDecompose k).k2 < 2 ^ p.width
  glvSound : ∀ k < p.r, ∃ z : Int, (k : Int) = signedValue (p.glvDecompose k).s1 (p.glvDecompose k).k1 +
    signedValue (p.glvDecompose k).s2 (p.glvDecompose k).k2 * (p.lambda : Int) + z * (p.r : Int)
  /-- WF9: `r` divides `q¹² − 1`. -/
  r_dvd : (p.q ^ 12 - 1) % p.r = 0

/-! ### A well-formed record exists

The smallest fields will do. This record only shows that R7 can be met, so that the constant below exists; nothing
can be proved of the machine that depends on its numbers. -/

/-- A record over `q = 7`, `r = 13` with the curve `y² = x³ + 3` of 13 points. -/
def Params.smallest : Params where
  width := 64
  fq := { modulus := 7, generator := 3, twoAdicity := 1, t := 3, powersOfG := [] }
  fr := { modulus := 13, generator := 2, twoAdicity := 2, t := 3, powersOfG := [8] }
  nonres2 := 3
  nonres6 := ⟨1, 1⟩
  nonres12 := ⟨⟨0, 0⟩, ⟨1, 0⟩, ⟨0, 0⟩⟩
  frob2 := [1, 6]
  frob6c1 := [⟨1, 0⟩, ⟨4, 2⟩, ⟨4, 0⟩, ⟨2, 1⟩, ⟨2, 0⟩, ⟨1, 4⟩]
  frob6c2 := [⟨1, 0⟩, ⟨0, 2⟩, ⟨2, 0⟩, ⟨0, 4⟩, ⟨4, 0⟩, ⟨0, 1⟩]
  frob12c1 := [⟨1, 0⟩, ⟨1, 1⟩, ⟨5, 0⟩, ⟨5, 5⟩, ⟨4, 0⟩, ⟨4, 4⟩, ⟨6, 0⟩, ⟨6, 6⟩, ⟨2, 0⟩, ⟨2, 2⟩, ⟨3, 0⟩, ⟨3, 3⟩].map
    fun c => ⟨c, ⟨0, 0⟩, ⟨0, 0⟩⟩
  coeffA := 0
  coeffB := 3
  cofactor := 1
  genX := 1
  genY := 2
  endoBeta := 2
  lambda := 3
  q1 := 0
  q2 := 0
  b1 := 0
  b2 := 0
  r128 := 0
  halfR := 0
  glvDecompose := fun k => ⟨k, 0, false, false⟩

/-- A statement about every reduced `Fq2` element of the smallest record, by its 49 cases. -/
theorem Params.smallest_forall_fq2 {P : Fq2 → Prop} (h : ∀ x < 7, ∀ y < 7, P ⟨x, y⟩) :
    ∀ a : Fq2, a.Reduced 7 → P a :=
  fun a ha => h a.c0 ha.1 a.c1 ha.2

theorem Params.smallest_nonres6_nonCube :
    ∀ a : Fq2, a.Reduced 7 → fq2Mul smallest (fq2Mul smallest a a) a ≠ smallest.nonres6 :=
  smallest_forall_fq2 (by decide +kernel)

/-- The product of two reduced elements commutes and is reduced. -/
theorem Params.smallest_mul : ∀ a : Fq2, a.Reduced 7 → ∀ b : Fq2, b.Reduced 7 →
    fq2Mul smallest b a = fq2Mul smallest a b ∧ (fq2Mul smallest a b).Reduced 7 :=
  smallest_forall_fq2 (P := fun a => ∀ b : Fq2, b.Reduced 7 →
    fq2Mul smallest b a = fq2Mul smallest a b ∧ (fq2Mul smallest a b).Reduced 7)
    fun x hx y hy => smallest_forall_fq2 (by revert x y; decide +kernel)

/-- `2a0a2 + a1² = 0` gives `a0` from `a1` and `a2`. -/
theorem Params.smallest_solve : ∀ a : Fq2, a.Reduced 7 → ∀ b : Fq2, b.Reduced 7 → b ≠ fq2Zero → ∀ c : Fq2,
    c.Reduced 7 → fq2Add smallest (fq2Add smallest (fq2Mul smallest a b) c) (fq2Mul smallest b a) = fq2Zero →
    a = fq2Mul smallest (fq2Scale smallest c 3) ((fq2Inv smallest b).getD fq2Zero) := by
  have h1 : ∀ a : Fq2, a.Reduced 7 → ∀ b : Fq2, b.Reduced 7 → b = fq2Zero ∨
      a = fq2Mul smallest (fq2Mul smallest a b) ((fq2Inv smallest b).getD fq2Zero) :=
    smallest_forall_fq2 (P := fun a => ∀ b : Fq2, b.Reduced 7 → b = fq2Zero ∨
      a = fq2Mul smallest (fq2Mul smallest a b) ((fq2Inv smallest b).getD fq2Zero))
      fun x hx y hy => smallest_forall_fq2 (by revert x y; decide +kernel)
  have h2 : ∀ d : Fq2, d.Reduced 7 → ∀ c : Fq2, c.Reduced 7 →
      fq2Add smallest (fq2Add smallest d c) d = fq2Zero → d = fq2Scale smallest c 3 :=
    smallest_forall_fq2 (P := fun d => ∀ c : Fq2, c.Reduced 7 →
      fq2Add smallest (fq2Add smallest d c) d = fq2Zero → d = fq2Scale smallest c 3)
      fun x hx y hy => smallest_forall_fq2 (by revert x y; decide +kernel)
  intro a ha b hb hb0 c hc h
  obtain ⟨e2, e3⟩ := smallest_mul a ha b hb
  rw [e2] at h
  rw [← h2 _ e3 c hc h]
  exact (h1 a ha b hb).resolve_left hb0

/-- The square of the one candidate root of `X² − γ` with given `a1` and `a2 ≠ 0`. -/
def Params.smallestRoot (a1 a2 : Fq2) : Fq6 :=
  let a0 := fq2Mul smallest (fq2Scale smallest (fq2Mul smallest a1 a1) 3) ((fq2Inv smallest a2).getD fq2Zero)
  fq6Mul smallest ⟨a0, a1, a2⟩ ⟨a0, a1, a2⟩

theorem Params.smallest_nonres12_nonSquare :
    ∀ a : Fq6, a.Reduced 7 → fq6Mul smallest a a ≠ smallest.nonres12 := by
  have hz : ∀ a0 : Fq2, a0.Reduced 7 → ∀ a1 : Fq2, a1.Reduced 7 →
      fq6Mul smallest ⟨a0, a1, fq2Zero⟩ ⟨a0, a1, fq2Zero⟩ ≠ smallest.nonres12 :=
    smallest_forall_fq2 (P := fun a0 => ∀ a1 : Fq2, a1.Reduced 7 →
      fq6Mul smallest ⟨a0, a1, fq2Zero⟩ ⟨a0, a1, fq2Zero⟩ ≠ smallest.nonres12)
      fun x hx y hy => smallest_forall_fq2 (by revert x y; decide +kernel)
  have hs : ∀ a2 : Fq2, a2.Reduced 7 → ∀ a1 : Fq2, a1.Reduced 7 → smallestRoot a1 a2 ≠ smallest.nonres12 :=
    smallest_forall_fq2 (P := fun a2 => ∀ a1 : Fq2, a1.Reduced 7 → smallestRoot a1 a2 ≠ smallest.nonres12)
      fun x hx y hy => smallest_forall_fq2 (by revert x y; decide +kernel)
  rintro ⟨a0, a1, a2⟩ ⟨h0, h1, h2⟩ h
  by_cases hb : a2 = fq2Zero
  · subst hb; exact hz a0 h0 a1 h1 h
  · have hr := (smallest_mul a1 h1 a1 h1).2
    have hc2 : fq2Add smallest (fq2Add smallest (fq2Mul smallest a0 a2) (fq2Mul smallest a1 a1))
        (fq2Mul smallest a2 a0) = fq2Zero := congrArg Fq6.c2 h
    have := smallest_solve a0 h0 a2 h2 hb _ hr hc2
    rw [this] at h
    exact hs a2 h2 a1 h1 h

theorem Params.smallest_wellFormed : Params.smallest.WellFormed where
  width_pos := by decide
  width_limbs := by decide
  fq := by
    constructor
    · exact (by norm_num : Nat.Prime 7)
    all_goals decide +kernel
  fr := by
    constructor
    · exact (by norm_num : Nat.Prime 13)
    all_goals decide +kernel
  nonres2_lt := by decide
  nonres2_nonSquare := by decide +kernel
  nonres6_reduced := by decide
  nonres6_nonCube := smallest_nonres6_nonCube
  nonres12_reduced := by decide
  nonres12_nonSquare := smallest_nonres12_nonSquare
  q_mod_three := by decide
  frob2 := by decide +kernel
  frob6c1 := by decide +kernel
  frob6c2 := by decide +kernel
  frob12c1 := by decide +kernel
  coeffA_lt := by decide
  coeffB_lt := by decide
  nonSingular := by decide
  genX_lt := by decide
  genY_lt := by decide
  gen_onCurve := by decide +kernel
  gen_order := by decide +kernel
  pointCount := by decide +kernel
  cofactor_lt := by decide +kernel
  endoBeta_lt := by decide
  lambda_lt := by decide
  endo := by
    have h : ∀ k < 13, ∀ P ∈ pointMul smallest smallest.generator k,
        pointMul smallest (some P) 3 = some (mulMod 7 2 P.1, P.2) := by decide +kernel
    exact fun k hk x y hxy => h k hk (x, y) hxy
  glv_lt := by
    intro k hk
    have : k < 13 := hk
    exact ⟨by show k < 2 ^ 64; omega, by show 0 < 2 ^ 64; omega⟩
  glvSound := by
    intro k _
    exact ⟨0, by simp [smallest, signedValue]⟩
  r_dvd := by decide +kernel

namespace Config

/-- A well-formed parameter record (R7): what an implementation is configured with. -/
structure Record where
  params : Params
  wellFormed : params.WellFormed

/-- The record of the implementation: an uninterpreted constant (92_eei_decisions.md D2, `OPEN`). It has no body; the
argument only says that the type has an element. -/
opaque record [Inhabited Record] : Record

/-- The parameter record the machine runs on. DESIGN CHOICE (log 1): it is any well-formed record, and nothing but
R7 is known of it. -/
def params : Params := (@record ⟨⟨Params.smallest, Params.smallest_wellFormed⟩⟩).params

/-- Every rule of the spec assumes a well-formed record (R7). -/
theorem params_wellFormed : params.WellFormed :=
  (@record ⟨⟨Params.smallest, Params.smallest_wellFormed⟩⟩).wellFormed

/-- Coefficient `j` of what the `k`-th cyclotomic command outside its domain writes, before reduction: a free value
(43_frobenius_sparse_cyclotomic.md R214, 93_implementation_defined.md U1). It has no body. -/
opaque cycFree (k j : Nat) : Nat

end Config

end Sys2Proof
end

