-- ==== Sys2Proof/Machine/State.lean ====
section
/-! DEFINITION. The state of the block (10_state.md R10, R21) as plain data: the operand store, `STATUS`, `FCMD`, the
host port's side of a transaction, which the spec calls inputs and outputs of the step (R10, 20_memory.md R32), and the
model's own count of free values; with the ways a step can stop. -/

namespace Sys2Proof.Machine

/-- The operand store `x[0..255]` (10_state.md R11) as the list of the cells that hold a value, each an index and its
`W`-bit integer, indices strictly rising. An index that is not listed is a cell with `v = 0`: it "holds no value", and
its data is not observable (93_implementation_defined.md U5). -/
abbrev Store := List (Nat × Nat)

/-- What the host does at the port (20_memory.md R32, R46, 70_reset_and_hazards.md R360). -/
inductive HostEvent where
  /-- Issue a command word, with the limbs of the input payload, limb 0 first (R32, R33). -/
  | command (word : CmdWord) (payload : List Limb)
  /-- Request reset (R360). -/
  | reset
deriving DecidableEq, Repr

/-- What the block returns (20_memory.md R32): `STATUS` and `FCMD` as they stand after the command, and the output
payload of an `st` that did not fault and was not refused, limb 0 first; no limbs otherwise. -/
structure Response where
  status : BitVec 16
  fcmd : CmdWord
  payload : List Limb
deriving DecidableEq, Repr

/-- The state of the block and of its port. -/
structure State where
  /-- The operand store (10_state.md R11). -/
  cells : Store
  /-- `STATUS` (10_state.md R16). -/
  status : BitVec 16
  /-- `FCMD` (10_state.md R17). -/
  fcmd : CmdWord
  /-- The model's: what the host will do next, first event first (20_memory.md R32, R40). -/
  inbox : List HostEvent
  /-- The command word of the transaction in progress (10_state.md R10); 0 between transactions. -/
  word : CmdWord
  /-- The input payload of the transaction in progress (10_state.md R10); no limbs between transactions. -/
  payload : List Limb
  /-- The output payload the transaction in progress has sent (`PortOut`); no limbs between transactions. -/
  portOut : List Limb
  /-- The response to the last transaction, until the next one starts (20_memory.md R32). -/
  response : Option Response
  /-- The model's: how many free values have been drawn (43_frobenius_sparse_cyclotomic.md R214). -/
  drawn : Nat
deriving DecidableEq, Repr

/-- Why the machine stops with no next state. -/
inductive Fault where
  /-- A loop of the square root did not end (47_sqrt.md R307): `sqrt` and `pdec` raise it under an ill-formed parameter
  record alone, where the block never answers and the spec's model is `stuck` (70_reset_and_hazards.md R371). Safe. -/
  | hang
deriving DecidableEq, Repr

/-- Why the machine gives no meaning to a step. -/
inductive Refusal where
  /-- An arm of `exec` that has no meaning yet. Safe. -/
  | notModelled (mnemonic : String)
  /-- The host broke the transaction discipline: a payload with a command other than `ld`, or one of a length other than
  `LIMBS` (20_memory.md R33; 93_implementation_defined.md U3, treatment `refuse`). `step` and `ld` raise it. Safe. -/
  | badPayload
deriving DecidableEq, Repr

/-- What a step or a meaning answers. -/
abbrev Result := Host.Outcome State Fault Refusal

/-- The block right after reset (10_state.md R21, 70_reset_and_hazards.md R360): no cell holds a value, `STATUS` and
`FCMD` are 0. No transaction is in progress and the host has issued nothing. -/
def State.reset : State where
  cells := []
  status := 0
  fcmd := 0
  inbox := []
  word := 0
  payload := []
  portOut := []
  response := none
  drawn := 0

end Sys2Proof.Machine
end

