-- ==== Sys2Proof/Machine/Flags.lean ====
section
/-! DEFINITION. The fields of `STATUS` (10_state.md R16): `T` bit 0, `N` bit 1, `L` bits 3:2, `FLT` bit 4, `FCODE` bits
11:8; bits 7:5 and 15:12 reserved. Every flag is written through its own setter, which leaves the other bits alone. -/

namespace Sys2Proof.Machine

/-- `T`, the truth value of the last predicate command. -/
def State.flagT (s : State) : Bool := s.status.getLsbD 0

/-- `N`, set when the last `None`-capable command returned `None`. -/
def State.flagN (s : State) : Bool := s.status.getLsbD 1

/-- `L`, the Legendre class of the last `leg`. -/
def State.flagL (s : State) : BitVec 2 := s.status.extractLsb' 2 2

/-- `FLT`, the sticky fault latch. -/
def State.flt (s : State) : Bool := s.status.getLsbD 4

/-- `FCODE`, the cause code of the latched fault. -/
def State.fcode (s : State) : BitVec 4 := s.status.extractLsb' 8 4

/-- `w` with the field of the bits set in `mask` replaced by those bits of `v`. -/
def putField (w mask v : BitVec 16) : BitVec 16 := (w &&& ~~~mask) ||| (v &&& mask)

/-- `T <- b`. -/
def State.setT (s : State) (b : Bool) : State :=
  { s with status := putField s.status 0x0001 (if b then 0x0001 else 0) }

/-- `N <- b`. -/
def State.setN (s : State) (b : Bool) : State :=
  { s with status := putField s.status 0x0002 (if b then 0x0002 else 0) }

/-- The code of a Legendre class: 0 `Zero`, 1 `QuadraticResidue`, 2 `QuadraticNonResidue`. -/
def legendreCode : Legendre → BitVec 2
  | .zero => 0
  | .residue => 1
  | .nonResidue => 2

/-- `L <- c`. -/
def State.setL (s : State) (c : Legendre) : State :=
  { s with status := putField s.status 0x000C ((legendreCode c).setWidth 16 <<< 2) }

/-- The fault causes (60_exceptions.md R333), highest priority first (R335). -/
inductive FaultCode where
  | illegal
  | range
  | unwritten
  | badFlag
  | unreduced
deriving DecidableEq, Repr

/-- `FCODE` of a cause (60_exceptions.md R333). -/
def faultNumber : FaultCode → BitVec 4
  | .illegal => 1
  | .range => 2
  | .unwritten => 3
  | .badFlag => 4
  | .unreduced => 5

/-- `STATUS` with `FLT <- 1` and `FCODE <- code` (60_exceptions.md R336). -/
def latchFault (w : BitVec 16) (c : FaultCode) : BitVec 16 :=
  putField w 0x0F10 (0x0010 ||| ((faultNumber c).setWidth 16 <<< 8))

end Sys2Proof.Machine
end

