-- ==== Sys2Proof/Machine/Ops.lean ====
section
/-! DEFINITION. The named operations over the operand store and the port, taking a fault, and reset, which is the only
way out of a fault (10_state.md R11, 20_memory.md R32 to R34, 60_exceptions.md R336 to R338). -/

namespace Sys2Proof.Machine

/-! ### The operand store -/

/-- Cell `i` as an optional integer: `none` when `x[i].v = 0` (10_state.md R11). -/
def readCell : Store → Nat → Option Nat
  | [], _ => none
  | (k, v) :: rest, i => if k = i then some v else readCell rest i

/-- `x[i] <- v`: the data is written and the cell becomes valid (00_scope.md R9). -/
def writeCell : Store → Nat → Nat → Store
  | [], i, v => [(i, v)]
  | (k, w) :: rest, i, v =>
    if i < k then (i, v) :: (k, w) :: rest
    else if i = k then (i, v) :: rest
    else (k, w) :: writeCell rest i v

/-- `x[i].v <- 0`. -/
def eraseCell (st : Store) (i : Nat) : Store := st.filter fun c => c.1 != i

/-- Write the integers to the cells `i, i+1, …` in order. -/
def writeCells : Store → Nat → List Nat → Store
  | st, _, [] => st
  | st, i, v :: vs => writeCells (writeCell st i v) (i + 1) vs

/-- `unwrite(i, n)` (00_scope.md R9). -/
def eraseCells : Store → Nat → Nat → Store
  | st, _, 0 => st
  | st, i, n + 1 => eraseCells (eraseCell st i) (i + 1) n

/-- The canonical form of the store: the 256 indices of the cell space (20_memory.md R30), strictly rising. -/
abbrev storeWf (st : Store) : Prop :=
  st.Pairwise (fun a b => a.1 < b.1) ∧ ∀ c ∈ st, c.1 < 256

/-- Write a run of cells. -/
def State.write (s : State) (i : Nat) (vs : List Nat) : State := { s with cells := writeCells s.cells i vs }

/-- Clear the valid bits of a run of cells. -/
def State.unwrite (s : State) (i n : Nat) : State := { s with cells := eraseCells s.cells i n }

/-- The integer in cell `i`. Commands use it after their checks, when the cell is known to hold one. -/
def State.value (s : State) (i : Nat) : Nat := (readCell s.cells i).getD 0

/-! ### The port -/

/-- The integer a payload denotes, `Σ limb_i · 2^(64·i)` (20_memory.md R33). -/
def payloadValue : List Limb → Nat
  | [] => 0
  | l :: ls => l.toNat + 2 ^ 64 * payloadValue ls

/-- The first `n` limbs of an integer, limb 0 first (00_scope.md R9 `limb(v, i)`, 20_memory.md R34). -/
def limbsOf : Nat → Nat → List Limb
  | 0, _ => []
  | n + 1, v => BitVec.ofNat 64 v :: limbsOf n (v / 2 ^ 64)

/-- A transaction starts: the host has sent a word and a payload, and the last response is gone (20_memory.md R32). -/
def State.begin (s : State) (word : CmdWord) (payload : List Limb) (rest : List HostEvent) : State :=
  { s with inbox := rest, word := word, payload := payload, portOut := [], response := none }

/-- The transaction ends: the block returns `STATUS`, `FCMD` and what was sent (20_memory.md R32). -/
def State.respond (s : State) : State :=
  { s with word := 0, payload := [], portOut := [], response := some ⟨s.status, s.fcmd, s.portOut⟩ }

/-! ### Faults and reset -/

/-- Fault entry: `FLT <- 1`, `FCODE <- code`, `FCMD <-` the command word, and nothing else (60_exceptions.md R336). -/
def takeFault (c : FaultCode) (s : State) : State :=
  { s with status := latchFault s.status c, fcmd := s.word }

/-- Reset, the only way back from a fault (70_reset_and_hazards.md R360, 60_exceptions.md R338): every cell loses its
value, `STATUS <- 0`, `FCMD <- 0`, and no response is owed. What the host does after it, and the model's count of free
values, are not the block's state and stay. -/
def resetBlock (s : State) : State :=
  { State.reset with inbox := s.inbox, drawn := s.drawn }

end Sys2Proof.Machine
end

