-- ==== Sys2Proof/Machine/Operands.lean ====
section
/-! DEFINITION. Operands: the element types with their footprints, layouts and checks (10_state.md R12 to R14), the
checks of a command and their priority (60_exceptions.md R333 to R335), and `command`, the one frame every meaning runs
in: refusal while `FLT = 1` (R337), then all checks, then the effect. -/

namespace Sys2Proof.Machine

/-! ### Cell kinds and element types -/

/-- How a command reads a cell, and so what it checks (10_state.md R12, R13). -/
inductive CellKind where
  /-- A raw integer: valid only. -/
  | raw
  /-- An element of the prime field with modulus `m`: below `m`, else `UNREDUCED`. -/
  | modulus (m : Nat)
  /-- An infinity flag: 0 or 1, else `BADFLAG`. -/
  | flag
deriving DecidableEq, Repr

/-- An operand type (10_state.md R12): the kinds of its cells, lowest index first, how a value is read off the cells
from an index on, and the layout of a value. -/
structure ElemTy (α : Type) where
  kinds : List CellKind
  read : (Nat → Nat) → Nat → α
  cells : α → List Nat

/-- The footprint: how many consecutive cells an operand occupies. -/
def elemWidth {α : Type} (t : ElemTy α) : Nat := t.kinds.length

/-- A raw integer. -/
def rawElem : ElemTy Nat where
  kinds := [.raw]
  read get i := get i
  cells v := [v]

/-- An element of the prime field with modulus `m`: `Fq` or `Fr`. -/
def primeElem (m : Nat) : ElemTy Nat where
  kinds := [.modulus m]
  read get i := get i
  cells v := [v]

/-- An `Fq2` element, cells `c0, c1`. -/
def fq2Elem (p : Params) : ElemTy Fq2 where
  kinds := [.modulus p.q, .modulus p.q]
  read get i := ⟨get i, get (i + 1)⟩
  cells a := [a.c0, a.c1]

/-- An `Fq6` element, cells `c0.c0, c0.c1, c1.c0, c1.c1, c2.c0, c2.c1`. -/
def fq6Elem (p : Params) : ElemTy Fq6 where
  kinds := List.replicate 6 (.modulus p.q)
  read get i := ⟨⟨get i, get (i + 1)⟩, ⟨get (i + 2), get (i + 3)⟩, ⟨get (i + 4), get (i + 5)⟩⟩
  cells a := [a.c0.c0, a.c0.c1, a.c1.c0, a.c1.c1, a.c2.c0, a.c2.c1]

/-- An `Fq12` element, the 6 cells of `c0`, then the 6 cells of `c1`. -/
def fq12Elem (p : Params) : ElemTy Fq12 where
  kinds := List.replicate 12 (.modulus p.q)
  read get i := ⟨(fq6Elem p).read get i, (fq6Elem p).read get (i + 6)⟩
  cells a := (fq6Elem p).cells a.c0 ++ (fq6Elem p).cells a.c1

/-- An affine point, cells `x, y, inf` (10_state.md R13). -/
def affElem (p : Params) : ElemTy Affine where
  kinds := [.modulus p.q, .modulus p.q, .flag]
  read get i := ⟨get i, get (i + 1), get (i + 2)⟩
  cells P := [P.x, P.y, P.inf]

/-- A Jacobian point, cells `X, Y, Z` (10_state.md R14). -/
def jacElem (p : Params) : ElemTy Jacobian where
  kinds := [.modulus p.q, .modulus p.q, .modulus p.q]
  read get i := ⟨get i, get (i + 1), get (i + 2)⟩
  cells P := [P.x, P.y, P.z]

/-- The packed sparse operand of `mul01`: two `Fq2` elements in four cells (43_frobenius_sparse_cyclotomic.md R208). -/
def sparsePairElem (p : Params) : ElemTy (Fq2 × Fq2) where
  kinds := List.replicate 4 (.modulus p.q)
  read get i := (⟨get i, get (i + 1)⟩, ⟨get (i + 2), get (i + 3)⟩)
  cells s := [s.1.c0, s.1.c1, s.2.c0, s.2.c1]

/-- The packed sparse operand of `mul014` and `mul034`: three `Fq2` elements in six cells (R209, R210). -/
def sparseTripleElem (p : Params) : ElemTy (Fq2 × Fq2 × Fq2) where
  kinds := List.replicate 6 (.modulus p.q)
  read get i := (⟨get i, get (i + 1)⟩, ⟨get (i + 2), get (i + 3)⟩, ⟨get (i + 4), get (i + 5)⟩)
  cells s := [s.1.c0, s.1.c1, s.2.1.c0, s.2.1.c1, s.2.2.c0, s.2.2.c1]

/-! ### Checks -/

/-- A source operand: `count` consecutive elements of the given kinds from a first cell on. -/
structure Source where
  start : Nat
  kinds : List CellKind
  count : Nat
deriving DecidableEq, Repr

/-- A destination operand: its first cell and its footprint. -/
structure Dest where
  start : Nat
  width : Nat
deriving DecidableEq, Repr

/-- How many cells a source operand occupies. -/
def sourceWidth (o : Source) : Nat := o.count * o.kinds.length

/-- The cells from index `i` on, each with the kind it is read as. -/
def numberCells : Nat → List CellKind → List (Nat × CellKind)
  | _, [] => []
  | i, k :: ks => (i, k) :: numberCells (i + 1) ks

/-- The cells of a source operand, each with the kind it is read as. -/
def sourceCells (o : Source) : List (Nat × CellKind) :=
  numberCells o.start (List.replicate o.count o.kinds).flatten

/-- The footprint of `width` cells from `start` on passes cell 255. An operand of no cells from an index `0 .. 255` on
never does (41_prime_field.md R116, 49_host_and_control.md R323). -/
def outOfRange (start width : Nat) : Bool := decide (256 < start + width)

/-- The cell is not valid (60_exceptions.md R333 `UNWRITTEN`). -/
def cellUnwritten (st : Store) (c : Nat × CellKind) : Bool := (readCell st c.1).isNone

/-- The cell is valid, is read as a flag and holds neither 0 nor 1 (R333 `BADFLAG`, R334). -/
def cellBadFlag (st : Store) (c : Nat × CellKind) : Bool :=
  match c.2, readCell st c.1 with
  | .flag, some v => decide (1 < v)
  | _, _ => false

/-- The cell is valid, is read as a field element and holds an integer that is not below the modulus
(R333 `UNREDUCED`, R334). -/
def cellUnreduced (st : Store) (c : Nat × CellKind) : Bool :=
  match c.2, readCell st c.1 with
  | .modulus m, some v => decide (m ≤ v)
  | _, _ => false

/-- Every violation over all operands, reported by the one of lowest code (60_exceptions.md R335). The cells of an
operand are looked at only when every footprint is in range (R334). -/
def violation (srcs : List Source) (dsts : List Dest) (st : Store) : Option FaultCode :=
  if (srcs.any fun o => outOfRange o.start (sourceWidth o)) || (dsts.any fun d => outOfRange d.start d.width) then
    some .range
  else if (srcs.any fun o => (sourceCells o).any (cellUnwritten st)) then some .unwritten
  else if (srcs.any fun o => (sourceCells o).any (cellBadFlag st)) then some .badFlag
  else if (srcs.any fun o => (sourceCells o).any (cellUnreduced st)) then some .unreduced
  else none

/-- The frame of every command: refused while `FLT = 1`, with no write at all (60_exceptions.md R337); else every check
before any write (R335), a violation taking the fault (R336); else the effect. -/
def command (srcs : List Source) (dsts : List Dest) (s : State) (effect : Result) : Result :=
  if s.flt then .next s
  else match violation srcs dsts s.cells with
    | some c => .next (takeFault c s)
    | none => effect

/-! ### Operands of a command -/

/-- `n` consecutive elements as a source operand. -/
def vectorSource {α : Type} (t : ElemTy α) (i : CellIdx) (n : Nat) : Source := ⟨i.toNat, t.kinds, n⟩

/-- One element as a source operand. -/
def elemSource {α : Type} (t : ElemTy α) (i : CellIdx) : Source := vectorSource t i 1

/-- One element as a destination operand. -/
def elemDest {α : Type} (t : ElemTy α) (i : CellIdx) : Dest := ⟨i.toNat, elemWidth t⟩

/-- `n` consecutive elements as a destination operand. -/
def vectorDest {α : Type} (t : ElemTy α) (i : CellIdx) (n : Nat) : Dest := ⟨i.toNat, n * elemWidth t⟩

/-- The element at an index: `rdE(i)` after the checks (00_scope.md R9). -/
def loadElem {α : Type} (t : ElemTy α) (s : State) (i : CellIdx) : α := t.read s.value i.toNat

/-- The `n` consecutive elements from an index on. -/
def loadVector {α : Type} (t : ElemTy α) (s : State) (i : CellIdx) (n : Nat) : List α :=
  (List.range n).map fun j => t.read s.value (i.toNat + j * elemWidth t)

/-- `wrE(i, e)` after the checks (00_scope.md R9). -/
def storeElem {α : Type} (t : ElemTy α) (s : State) (i : CellIdx) (a : α) : State := s.write i.toNat (t.cells a)

/-- A `None`-capable command's end (60_exceptions.md R331): `None` sets `N` and unwrites the destination footprint, a
value clears `N` and is written. -/
def storeOption {α : Type} (t : ElemTy α) (s : State) (i : CellIdx) : Option α → State
  | none => (s.unwrite i.toNat (elemWidth t)).setN true
  | some a => storeElem t (s.setN false) i a

/-! ### The shapes of a command -/

/-- A command with no source operand that writes a constant. -/
def constCommand {α : Type} (td : ElemTy α) (v : α) (rd : CellIdx) (s : State) : Result :=
  command [] [elemDest td rd] s (.next (storeElem td s rd v))

/-- A command `rd <- f(ra)`. -/
def unaryCommand {α β : Type} (ta : ElemTy α) (td : ElemTy β) (f : α → β) (rd ra : CellIdx) (s : State) : Result :=
  command [elemSource ta ra] [elemDest td rd] s (.next (storeElem td s rd (f (loadElem ta s ra))))

/-- A command `rd <- f(ra, rb)`. -/
def binaryCommand {α β γ : Type} (ta : ElemTy α) (tb : ElemTy β) (td : ElemTy γ) (f : α → β → γ)
    (rd ra rb : CellIdx) (s : State) : Result :=
  command [elemSource ta ra, elemSource tb rb] [elemDest td rd] s
    (.next (storeElem td s rd (f (loadElem ta s ra) (loadElem tb s rb))))

/-- A `None`-capable command `rd <- f(ra)`. -/
def partialUnaryCommand {α β : Type} (ta : ElemTy α) (td : ElemTy β) (f : α → Option β) (rd ra : CellIdx)
    (s : State) : Result :=
  command [elemSource ta ra] [elemDest td rd] s (.next (storeOption td s rd (f (loadElem ta s ra))))

/-- A `None`-capable command `rd <- f(ra, rb)`. -/
def partialBinaryCommand {α β γ : Type} (ta : ElemTy α) (tb : ElemTy β) (td : ElemTy γ) (f : α → β → Option γ)
    (rd ra rb : CellIdx) (s : State) : Result :=
  command [elemSource ta ra, elemSource tb rb] [elemDest td rd] s
    (.next (storeOption td s rd (f (loadElem ta s ra) (loadElem tb s rb))))

/-- A predicate `T <- f(ra)`; it writes no cell. -/
def testCommand {α : Type} (ta : ElemTy α) (f : α → Bool) (ra : CellIdx) (s : State) : Result :=
  command [elemSource ta ra] [] s (.next (s.setT (f (loadElem ta s ra))))

/-- A predicate `T <- f(ra, rb)`; it writes no cell. -/
def compareCommand {α β : Type} (ta : ElemTy α) (tb : ElemTy β) (f : α → β → Bool) (ra rb : CellIdx)
    (s : State) : Result :=
  command [elemSource ta ra, elemSource tb rb] [] s
    (.next (s.setT (f (loadElem ta s ra) (loadElem tb s rb))))

/-- The sum-of-products command over two vectors of `n` elements (41_prime_field.md R116). -/
def sopCommand {α : Type} (t : ElemTy α) (zero : α) (add mul : α → α → α) (rd ra rb : CellIdx) (n : Imm)
    (s : State) : Result :=
  command [vectorSource t ra n.toNat, vectorSource t rb n.toNat] [elemDest t rd] s
    (.next (storeElem t s rd
      (sumOfProducts zero add mul (loadVector t s ra n.toNat) (loadVector t s rb n.toNat))))

/-- `a ÷ b` from the inverse and the product of a field: `None` for a zero divisor (41_prime_field.md R114). -/
def divideBy {α : Type} (mul : α → α → α) (inv : α → Option α) (a b : α) : Option α := (inv b).map (mul a)

end Sys2Proof.Machine
end

