-- ==== Sys2Proof/Machine/ScalarArith.lean ====
section
/-! DEFINITION. The value functions of scalar multiplication (46_scalar_mul.md R280 to R287): the endomorphism, the
window tables, the windowed NAF, the combined loop, GLV multiplication and naive double-and-add. -/

namespace Sys2Proof.Machine

/-- The endomorphism on a triple, `(ENDO_BETA · X, Y, Z)` (R282). -/
def endo (p : Params) (P : Jacobian) : Jacobian := ⟨mulMod p.q p.endoBeta P.x, P.y, P.z⟩

/-- The recoding loop of R284, `WINDOW = 4`, with `fuel` digits left to make. A digit `d ≥ 16` is centred to
`d − 32`, so that subtracting it adds `32 − d`. -/
def wnafLoop : Nat → Nat → List Int
  | 0, _ => []
  | fuel + 1, e =>
    if e = 0 then []
    else if e % 2 = 1 then
      let d := e % 32
      if 16 ≤ d then ((d : Int) - 32) :: wnafLoop fuel ((e + (32 - d)) / 2)
      else (d : Int) :: wnafLoop fuel ((e - d) / 2)
    else 0 :: wnafLoop fuel (e / 2)

/-- `WNAF(e)`, least significant digit first (R284); its length is at most `bitlen(e) + 1`. -/
def wnaf (e : Nat) : List Int := wnafLoop (bitLen e + 1) e

/-- `T1[0] = P`, `T1[i] = PADDM(T1[i−1], D)`: `n` entries from `P` on (R283). -/
def oddMultiples (p : Params) (D : Affine) : Nat → Jacobian → List Jacobian
  | 0, _ => []
  | n + 1, P => P :: oddMultiples p D n (jacAddMixed p P D)

/-- The tables `A1` and `A2` of R283, eight entries each, normalized in one batch of sixteen points. -/
def windowTables (p : Params) (P : Jacobian) : List Affine × List Affine :=
  let t1 := oddMultiples p (toAffine p (jacDouble p P)) 8 P
  let ns := (batchNormalize p (t1 ++ t1.map (endo p))).map (toAffine p)
  (ns.take 8, ns.drop 8)

/-- The table entry a non-zero digit selects, `A[|d| >> 1]`, negated for a negative digit (R285). -/
def digitPoint (p : Params) (A : List Affine) (d : Int) : Affine :=
  let E := A.getD (d.natAbs / 2) affIdentity
  if d < 0 then affNeg p E else E

/-- The contribution of one table at position `i` (R285). -/
def addDigit (p : Params) (digits : List Int) (A : List Affine) (i : Nat) (acc : Jacobian) : Jacobian :=
  match digits[i]? with
  | none => acc
  | some d => if d = 0 then acc else jacAddMixed p acc (digitPoint p A d)

/-- The positions `i − 1` down to 0 of the combined loop (R285): table 1, then table 2, then one doubling except
after position 0. -/
def combinedFrom (p : Params) (n1 n2 : List Int) (A1 A2 : List Affine) : Nat → Jacobian → Jacobian
  | 0, acc => acc
  | i + 1, acc =>
    let acc' := addDigit p n2 A2 i (addDigit p n1 A1 i acc)
    combinedFrom p n1 n2 A1 A2 i (if i = 0 then acc' else jacDouble p acc')

/-- `CombinedLoop(n1, n2, A1, A2)` (R285). -/
def combinedLoop (p : Params) (n1 n2 : List Int) (A1 A2 : List Affine) : Jacobian :=
  combinedFrom p n1 n2 A1 A2 (max n1.length n2.length) jacIdentity

/-- The digits of a half-scalar, each negated when its sign flag is set (R286). -/
def signedDigits (k : Nat) (negative : Bool) : List Int :=
  if negative then (wnaf k).map (fun d => -d) else wnaf k

/-- The triple `pmul` writes (R286). -/
def glvMul (p : Params) (P : Jacobian) (k : Nat) : Jacobian :=
  let g := p.glvDecompose k
  let t := windowTables p P
  combinedLoop p (signedDigits g.k1 g.s1) (signedDigits g.k2 g.s2) t.1 t.2

/-- The bits `i − 1` down to 0 of the double-and-add loop (R287). -/
def naiveLoop (p : Params) (P : Jacobian) (e : Nat) : Nat → Jacobian → Jacobian
  | 0, res => res
  | i + 1, res =>
    naiveLoop p P e i (if e.testBit i then jacAdd p (jacDouble p res) P else jacDouble p res)

/-- The triple `pmuln` writes (R287). -/
def naiveMul (p : Params) (P : Jacobian) (e : Nat) : Jacobian := naiveLoop p P e (bitLen e) jacIdentity

end Sys2Proof.Machine
end

