-- ==== Sys2Proof/Machine/CurveCommands.lean ====
section
/-! DEFINITION. The curve commands (44_curve_group.md R232 to R243), batch normalization (45_batch_normalization.md
R270) and scalar multiplication (46_scalar_mul.md R286, R287). -/

namespace Sys2Proof.Machine

/-- `bnorm.g1 rd, n` on a record (R270): the array is source and destination. -/
def bnormCommand (p : Params) (rd : CellIdx) (n : Imm) (s : State) : Result :=
  command [vectorSource (jacElem p) rd n.toNat] [vectorDest (jacElem p) rd n.toNat] s
    (.next (s.write rd.toNat
      ((batchNormalize p (loadVector (jacElem p) s rd n.toNat)).flatMap (jacElem p).cells)))

/-- `pzero.g1 rd`: the triple `(0, 1, 0)` (R232). -/
def execPzero (rd : CellIdx) (s : State) : Result := constCommand (jacElem Config.params) jacIdentity rd s

/-- `pisz.g1 ra`: `T <- (Z = 0)` (R233). -/
def execPisz (ra : CellIdx) (s : State) : Result :=
  testCommand (jacElem Config.params) (fun P => decide (P.z = 0)) ra s

/-- `aisz.g1 ra`: `T <- (inf = 1)` (R234). -/
def execAisz (ra : CellIdx) (s : State) : Result :=
  testCommand (affElem Config.params) (fun P => decide (P.inf = 1)) ra s

/-- `pdbl.g1 rd, ra` (R235). -/
def execPdbl (rd ra : CellIdx) (s : State) : Result :=
  unaryCommand (jacElem Config.params) (jacElem Config.params) (jacDouble Config.params) rd ra s

/-- `padd.g1 rd, ra, rb` (R236). -/
def execPadd (rd ra rb : CellIdx) (s : State) : Result :=
  binaryCommand (jacElem Config.params) (jacElem Config.params) (jacElem Config.params) (jacAdd Config.params)
    rd ra rb s

/-- `paddm.g1 rd, ra, rb`, `rb` affine (R237). -/
def execPaddm (rd ra rb : CellIdx) (s : State) : Result :=
  binaryCommand (jacElem Config.params) (affElem Config.params) (jacElem Config.params) (jacAddMixed Config.params)
    rd ra rb s

/-- `aneg.g1 rd, ra` (R238). -/
def execAneg (rd ra : CellIdx) (s : State) : Result :=
  unaryCommand (affElem Config.params) (affElem Config.params) (affNeg Config.params) rd ra s

/-- `peq.g1 ra, rb` (R239). -/
def execPeq (ra rb : CellIdx) (s : State) : Result :=
  compareCommand (jacElem Config.params) (jacElem Config.params) (jacEq Config.params) ra rb s

/-- `a2p.g1 rd, ra` (R240). -/
def execA2p (rd ra : CellIdx) (s : State) : Result :=
  unaryCommand (affElem Config.params) (jacElem Config.params) toJacobian rd ra s

/-- `p2a.g1 rd, ra` (R241). -/
def execP2a (rd ra : CellIdx) (s : State) : Result :=
  unaryCommand (jacElem Config.params) (affElem Config.params) (toAffine Config.params) rd ra s

/-- `bnorm.g1 rd, n` (R270). -/
def execBnorm (rd : CellIdx) (n : Imm) (s : State) : Result := bnormCommand Config.params rd n s

/-- `pgen.g1 rd`: the affine generator `(GEN_X, GEN_Y, 0)` (R242). -/
def execPgen (rd : CellIdx) (s : State) : Result :=
  constCommand (affElem Config.params) ⟨Config.params.genX, Config.params.genY, 0⟩ rd s

/-- `cof.g1 rd`: `COFACTOR`, one cell, a raw integer (R243). -/
def execCof (rd : CellIdx) (s : State) : Result := constCommand rawElem Config.params.cofactor rd s

/-- `pmuln.g1 rd, ra, rb`, `rb` a raw cell (R287). -/
def execPmuln (rd ra rb : CellIdx) (s : State) : Result :=
  binaryCommand (jacElem Config.params) rawElem (jacElem Config.params) (naiveMul Config.params) rd ra rb s

/-- `pmul.g1 rd, ra, rb`, `rb` an `Fr` element (R286). -/
def execPmul (rd ra rb : CellIdx) (s : State) : Result :=
  binaryCommand (jacElem Config.params) (primeElem Config.params.r) (jacElem Config.params) (glvMul Config.params)
    rd ra rb s

end Sys2Proof.Machine
end

