-- ==== Sys2Proof/Machine/FrobeniusCommands.lean ====
section
/-! DEFINITION. The Frobenius map, the multiplication by the non-residue, the sparse multiplications and the cyclotomic
commands (43_frobenius_sparse_cyclotomic.md R201 to R214). -/

namespace Sys2Proof.Machine

/-- The free element that the cyclotomic command number `k` outside its domain writes: twelve reduced coefficients of
which nothing else is known (R214, 93_implementation_defined.md U1). -/
def freeFq12 (p : Params) (k : Nat) : Fq12 := (fq12Elem p).read (fun j => Config.cycFree k j % p.q) 0

/-- The end of a cyclotomic command: on `C` the value of the rule, outside it any `Fq12` element, no fault and no flag
(R212, R213, R214). -/
def storeCyclotomic (p : Params) (s : State) (rd : CellIdx) (a value : Fq12) : State :=
  if inCyclotomic p a then storeElem (fq12Elem p) s rd value
  else { storeElem (fq12Elem p) s rd (freeFq12 p s.drawn) with drawn := s.drawn + 1 }

/-- `cycsqr.fq12 rd, ra` on a record (R212). -/
def cycsqrCommand (p : Params) (rd ra : CellIdx) (s : State) : Result :=
  command [elemSource (fq12Elem p) ra] [elemDest (fq12Elem p) rd] s
    (let a := loadElem (fq12Elem p) s ra
     .next (storeCyclotomic p s rd a (fq12Sqr p a)))

/-- `cycexp.fq12 rd, ra, rb` on a record (R213). On `C` the running result stays in `C`, where `cycsqr` is the square, so
the loop is that of the power. -/
def cycexpCommand (p : Params) (rd ra rb : CellIdx) (s : State) : Result :=
  command [elemSource (fq12Elem p) ra, elemSource rawElem rb] [elemDest (fq12Elem p) rd] s
    (let a := loadElem (fq12Elem p) s ra
     .next (storeCyclotomic p s rd a (fq12Pow p a (loadElem rawElem s rb))))

/-- `frob.fq2 rd, ra, k` (R201). -/
def execFrobFq2 (rd ra : CellIdx) (k : Imm) (s : State) : Result :=
  unaryCommand (fq2Elem Config.params) (fq2Elem Config.params) (fq2Frob Config.params k.toNat) rd ra s

/-- `frob.fq6 rd, ra, k` (R202). -/
def execFrobFq6 (rd ra : CellIdx) (k : Imm) (s : State) : Result :=
  unaryCommand (fq6Elem Config.params) (fq6Elem Config.params) (fq6Frob Config.params k.toNat) rd ra s

/-- `frob.fq12 rd, ra, k` (R203). -/
def execFrobFq12 (rd ra : CellIdx) (k : Imm) (s : State) : Result :=
  unaryCommand (fq12Elem Config.params) (fq12Elem Config.params) (fq12Frob Config.params k.toNat) rd ra s

/-- `mulnr.fq rd, ra` (R205). -/
def execMulnrFq (rd ra : CellIdx) (s : State) : Result :=
  unaryCommand (primeElem Config.params.q) (primeElem Config.params.q) (fqMulNonres Config.params) rd ra s

/-- `mulnr.fq2 rd, ra` (R206). -/
def execMulnrFq2 (rd ra : CellIdx) (s : State) : Result :=
  unaryCommand (fq2Elem Config.params) (fq2Elem Config.params) (fq2MulNonres Config.params) rd ra s

/-- `mulnr.fq6 rd, ra` (R207). -/
def execMulnrFq6 (rd ra : CellIdx) (s : State) : Result :=
  unaryCommand (fq6Elem Config.params) (fq6Elem Config.params) (fq6MulNonres Config.params) rd ra s

/-- `mul01.fq6 rd, ra, rb` (R208). -/
def execMul01Fq6 (rd ra rb : CellIdx) (s : State) : Result :=
  binaryCommand (fq6Elem Config.params) (sparsePairElem Config.params) (fq6Elem Config.params)
    (fun a t => fq6Mul Config.params a (sparse01 t.1 t.2)) rd ra rb s

/-- `mul014.fq12 rd, ra, rb` (R209). -/
def execMul014Fq12 (rd ra rb : CellIdx) (s : State) : Result :=
  binaryCommand (fq12Elem Config.params) (sparseTripleElem Config.params) (fq12Elem Config.params)
    (fun a t => fq12Mul Config.params a (sparse014 t.1 t.2.1 t.2.2)) rd ra rb s

/-- `mul034.fq12 rd, ra, rb` (R210). -/
def execMul034Fq12 (rd ra rb : CellIdx) (s : State) : Result :=
  binaryCommand (fq12Elem Config.params) (sparseTripleElem Config.params) (fq12Elem Config.params)
    (fun a t => fq12Mul Config.params a (sparse034 t.1 t.2.1 t.2.2)) rd ra rb s

/-- `cycsqr.fq12 rd, ra` (R212). -/
def execCycsqrFq12 (rd ra : CellIdx) (s : State) : Result := cycsqrCommand Config.params rd ra s

/-- `cycexp.fq12 rd, ra, rb` (R213). -/
def execCycexpFq12 (rd ra rb : CellIdx) (s : State) : Result := cycexpCommand Config.params rd ra rb s

end Sys2Proof.Machine
end

