-- ==== Sys2Proof/Machine/PrimeFieldCommands.lean ====
section
/-! DEFINITION. The prime-field commands of `Fq` and `Fr` (41_prime_field.md R102 to R121), but for `sqrt`
(`Machine/SqrtCommands.lean`). Every one reads one-cell operands and writes at most one cell. -/

namespace Sys2Proof.Machine

/-- `leg.F ra` on the field of modulus `m`: `L` is the only flag written, and no cell (R118). -/
def legCommand (m : Nat) (ra : CellIdx) (s : State) : Result :=
  command [elemSource (primeElem m) ra] [] s (.next (s.setL (legendre m (loadElem (primeElem m) s ra))))

/-- `zero.fq`: the zero of the field (R102). -/
def execZeroFq (rd : CellIdx) (s : State) : Result := constCommand (primeElem Config.params.q) 0 rd s

/-- `zero.fr`: the zero of the field (R102). -/
def execZeroFr (rd : CellIdx) (s : State) : Result := constCommand (primeElem Config.params.r) 0 rd s

/-- `one.fq`: the one of the field (R103). -/
def execOneFq (rd : CellIdx) (s : State) : Result := constCommand (primeElem Config.params.q) 1 rd s

/-- `one.fr`: the one of the field (R103). -/
def execOneFr (rd : CellIdx) (s : State) : Result := constCommand (primeElem Config.params.r) 1 rd s

/-- `isz.fq`: `T <- (a = 0)` (R104). -/
def execIszFq (ra : CellIdx) (s : State) : Result :=
  testCommand (primeElem Config.params.q) (fun a => decide (a = 0)) ra s

/-- `isz.fr`: `T <- (a = 0)` (R104). -/
def execIszFr (ra : CellIdx) (s : State) : Result :=
  testCommand (primeElem Config.params.r) (fun a => decide (a = 0)) ra s

/-- `isone.fq`: `T <- (a = 1)` (R105). -/
def execIsoneFq (ra : CellIdx) (s : State) : Result :=
  testCommand (primeElem Config.params.q) (fun a => decide (a = 1)) ra s

/-- `isone.fr`: `T <- (a = 1)` (R105). -/
def execIsoneFr (ra : CellIdx) (s : State) : Result :=
  testCommand (primeElem Config.params.r) (fun a => decide (a = 1)) ra s

/-- `eq.fq`: `T <- (a = b)` (R106). -/
def execEqFq (ra rb : CellIdx) (s : State) : Result :=
  compareCommand (primeElem Config.params.q) (primeElem Config.params.q) (fun a b => decide (a = b)) ra rb s

/-- `eq.fr`: `T <- (a = b)` (R106). -/
def execEqFr (ra rb : CellIdx) (s : State) : Result :=
  compareCommand (primeElem Config.params.r) (primeElem Config.params.r) (fun a b => decide (a = b)) ra rb s

/-- `add.fq`: the sum (R107). -/
def execAddFq (rd ra rb : CellIdx) (s : State) : Result :=
  binaryCommand (primeElem Config.params.q) (primeElem Config.params.q) (primeElem Config.params.q)
    (addMod Config.params.q) rd ra rb s

/-- `add.fr`: the sum (R107). -/
def execAddFr (rd ra rb : CellIdx) (s : State) : Result :=
  binaryCommand (primeElem Config.params.r) (primeElem Config.params.r) (primeElem Config.params.r)
    (addMod Config.params.r) rd ra rb s

/-- `sub.fq`: the difference (R108). -/
def execSubFq (rd ra rb : CellIdx) (s : State) : Result :=
  binaryCommand (primeElem Config.params.q) (primeElem Config.params.q) (primeElem Config.params.q)
    (subMod Config.params.q) rd ra rb s

/-- `sub.fr`: the difference (R108). -/
def execSubFr (rd ra rb : CellIdx) (s : State) : Result :=
  binaryCommand (primeElem Config.params.r) (primeElem Config.params.r) (primeElem Config.params.r)
    (subMod Config.params.r) rd ra rb s

/-- `mul.fq`: the product (R109). -/
def execMulFq (rd ra rb : CellIdx) (s : State) : Result :=
  binaryCommand (primeElem Config.params.q) (primeElem Config.params.q) (primeElem Config.params.q)
    (mulMod Config.params.q) rd ra rb s

/-- `mul.fr`: the product (R109). -/
def execMulFr (rd ra rb : CellIdx) (s : State) : Result :=
  binaryCommand (primeElem Config.params.r) (primeElem Config.params.r) (primeElem Config.params.r)
    (mulMod Config.params.r) rd ra rb s

/-- `neg.fq`: the negative (R110). -/
def execNegFq (rd ra : CellIdx) (s : State) : Result :=
  unaryCommand (primeElem Config.params.q) (primeElem Config.params.q) (negMod Config.params.q) rd ra s

/-- `neg.fr`: the negative (R110). -/
def execNegFr (rd ra : CellIdx) (s : State) : Result :=
  unaryCommand (primeElem Config.params.r) (primeElem Config.params.r) (negMod Config.params.r) rd ra s

/-- `dbl.fq`: the double (R111). -/
def execDblFq (rd ra : CellIdx) (s : State) : Result :=
  unaryCommand (primeElem Config.params.q) (primeElem Config.params.q) (dblMod Config.params.q) rd ra s

/-- `dbl.fr`: the double (R111). -/
def execDblFr (rd ra : CellIdx) (s : State) : Result :=
  unaryCommand (primeElem Config.params.r) (primeElem Config.params.r) (dblMod Config.params.r) rd ra s

/-- `sqr.fq`: the square (R112). -/
def execSqrFq (rd ra : CellIdx) (s : State) : Result :=
  unaryCommand (primeElem Config.params.q) (primeElem Config.params.q) (sqrMod Config.params.q) rd ra s

/-- `sqr.fr`: the square (R112). -/
def execSqrFr (rd ra : CellIdx) (s : State) : Result :=
  unaryCommand (primeElem Config.params.r) (primeElem Config.params.r) (sqrMod Config.params.r) rd ra s

/-- `inv.fq`: the inverse, `None` for zero (R113). -/
def execInvFq (rd ra : CellIdx) (s : State) : Result :=
  partialUnaryCommand (primeElem Config.params.q) (primeElem Config.params.q) (invMod Config.params.q) rd ra s

/-- `inv.fr`: the inverse, `None` for zero (R113). -/
def execInvFr (rd ra : CellIdx) (s : State) : Result :=
  partialUnaryCommand (primeElem Config.params.r) (primeElem Config.params.r) (invMod Config.params.r) rd ra s

/-- `div.fq`: the quotient, `None` for a zero divisor (R114). -/
def execDivFq (rd ra rb : CellIdx) (s : State) : Result :=
  partialBinaryCommand (primeElem Config.params.q) (primeElem Config.params.q) (primeElem Config.params.q)
    (divideBy (mulMod Config.params.q) (invMod Config.params.q)) rd ra rb s

/-- `div.fr`: the quotient, `None` for a zero divisor (R114). -/
def execDivFr (rd ra rb : CellIdx) (s : State) : Result :=
  partialBinaryCommand (primeElem Config.params.r) (primeElem Config.params.r) (primeElem Config.params.r)
    (divideBy (mulMod Config.params.r) (invMod Config.params.r)) rd ra rb s

/-- `pow.fq`: `a^e`, `e` a raw cell (R115). -/
def execPowFq (rd ra rb : CellIdx) (s : State) : Result :=
  binaryCommand (primeElem Config.params.q) rawElem (primeElem Config.params.q) (powMod Config.params.q) rd ra rb s

/-- `pow.fr`: `a^e`, `e` a raw cell (R115). -/
def execPowFr (rd ra rb : CellIdx) (s : State) : Result :=
  binaryCommand (primeElem Config.params.r) rawElem (primeElem Config.params.r) (powMod Config.params.r) rd ra rb s

/-- `sop.fq`: the sum of `n` products (R116). -/
def execSopFq (rd ra rb : CellIdx) (n : Imm) (s : State) : Result :=
  sopCommand (primeElem Config.params.q) 0 (addMod Config.params.q) (mulMod Config.params.q) rd ra rb n s

/-- `sop.fr`: the sum of `n` products (R116). -/
def execSopFr (rd ra rb : CellIdx) (n : Imm) (s : State) : Result :=
  sopCommand (primeElem Config.params.r) 0 (addMod Config.params.r) (mulMod Config.params.r) rd ra rb n s

/-- `char.fq`: the modulus as a raw integer (90_conflicts.md C1) (R117). -/
def execCharFq (rd : CellIdx) (s : State) : Result := constCommand rawElem Config.params.q rd s

/-- `char.fr`: the modulus as a raw integer (90_conflicts.md C1) (R117). -/
def execCharFr (rd : CellIdx) (s : State) : Result := constCommand rawElem Config.params.r rd s

/-- `leg.fq`: `L <-` the Legendre class (R118). -/
def execLegFq (ra : CellIdx) (s : State) : Result := legCommand Config.params.q ra s

/-- `leg.fr`: `L <-` the Legendre class (R118). -/
def execLegFr (ra : CellIdx) (s : State) : Result := legCommand Config.params.r ra s

/-- `red.fq`: a raw integer modulo the modulus (R121). -/
def execRedFq (rd ra : CellIdx) (s : State) : Result :=
  unaryCommand rawElem (primeElem Config.params.q) (fun v => v % Config.params.q) rd ra s

/-- `red.fr`: a raw integer modulo the modulus (R121). -/
def execRedFr (rd ra : CellIdx) (s : State) : Result :=
  unaryCommand rawElem (primeElem Config.params.r) (fun v => v % Config.params.r) rd ra s

end Sys2Proof.Machine
end

