-- ==== Sys2Proof/Machine/SqrtArith.lean ====
section
/-! DEFINITION. The generalized Tonelli-Shanks square root of 47_sqrt.md (R300 to R304): `find`, `eval` and `sqrt`
on one prime field. The loops are bounded by the two-adicity `n`, which R302, R303 and R307 give as their length
under a well-formed record; a loop that needs more is a command that does not complete (R307, R371). -/

namespace Sys2Proof.Machine

/-- What `sqrt` answers (R304), and the case that it never answers (R307, R371). -/
inductive SqrtResult where
  /-- `Some(y)`. -/
  | root (y : Nat)
  /-- `None`: the operand is a quadratic non-residue. -/
  | nonResidue
  /-- A loop of R302 or R303 does not end; only an ill-formed record gives this (R307). -/
  | hang
deriving DecidableEq, Repr

/-- The loop of `find` (R302) with `fuel` tests left: the count `i` of squarings after which `μ = m − 1`. -/
def findLoop (m : Nat) : Nat → Nat → Nat → Option Nat
  | 0, _, _ => none
  | fuel + 1, μ, i => if μ = m - 1 then some i else findLoop m fuel (mulMod m μ μ) (i + 1)

/-- `find(δ)` (R302): the result is at most `n − 1`. -/
def findOrder (f : PrimeParams) (δ : Nat) : Option Nat := findLoop f.modulus f.twoAdicity δ 0

/-- One pass of `eval` (R303): the new `δ`, given `i = find(δ)`. -/
def evalPass (f : PrimeParams) (δ i : Nat) : Nat :=
  if 0 < i then mulMod f.modulus δ (f.powersOfG.getD (f.twoAdicity - 1 - i) 0) else f.modulus - δ

/-- The loop of `eval` (R303) with `fuel` passes left. -/
def evalLoop (f : PrimeParams) : Nat → Nat → Nat → Option Nat
  | 0, δ, s => if δ = 1 then some s else none
  | fuel + 1, δ, s =>
    if δ = 1 then some s
    else match findOrder f δ with
      | none => none
      | some i => evalLoop f fuel (evalPass f δ i) (s + 2 ^ (f.twoAdicity - 1 - i))

/-- `eval(δ)` (R303): at most `n` passes. -/
def evalLog (f : PrimeParams) (δ : Nat) : Option Nat := evalLoop f f.twoAdicity δ 0

/-- The product of `POWERS_OF_G[j]` over the bits `j` of `h` that are 1 (R304). -/
def tableProduct (m h : Nat) : Nat → List Nat → Nat
  | _, [] => 1
  | j, g :: gs => if h.testBit j then mulMod m g (tableProduct m h (j + 1) gs) else tableProduct m h (j + 1) gs

/-- `sqrt(a)` for a reduced `a` (R304). -/
def sqrtMod (f : PrimeParams) (a : Nat) : SqrtResult :=
  match legendre f.modulus a with
  | .zero => .root a
  | .nonResidue => .nonResidue
  | .residue =>
    let v := powMod f.modulus a ((f.t - 1) / 2)
    let x := mulMod f.modulus (mulMod f.modulus a v) v
    match evalLog f x with
    | none => .hang
    | some s =>
      let γ := tableProduct f.modulus (s / 2) 0 f.powersOfG
      .root (mulMod f.modulus (mulMod f.modulus a v) γ)

end Sys2Proof.Machine
end

