-- ==== Sys2Proof/Machine/SqrtCommands.lean ====
section
/-! DEFINITION. The commands built on the square root: `sqrt.fq`, `sqrt.fr` (47_sqrt.md R305) and the point decode
`pdec.g1` (44_curve_group.md R253). -/

namespace Sys2Proof.Machine

/-- The end of a command that asks for a square root: `Some(y)` and `None` are those of 60_exceptions.md R331; where the
root's loops do not end the command does not complete (R307, R371). -/
def storeRoot {α : Type} (t : ElemTy α) (s : State) (rd : CellIdx) (mk : Nat → α) : SqrtResult → Result
  | .root y => .next (storeOption t s rd (some (mk y)))
  | .nonResidue => .next (storeOption t s rd none)
  | .hang => .fault .hang

/-- `sqrt.F rd, ra` on the field `f` (R305). -/
def sqrtCommand (f : PrimeParams) (rd ra : CellIdx) (s : State) : Result :=
  let t := primeElem f.modulus
  command [elemSource t ra] [elemDest t rd] s (storeRoot t s rd id (sqrtMod f (loadElem t s ra)))

/-- The right side of the curve equation, `x³ + a·x + b` (R253). -/
def curveRhs (p : Params) (x : Nat) : Nat :=
  addMod p.q (addMod p.q (mulMod p.q (mulMod p.q x x) x) (mulMod p.q p.coeffA x)) p.coeffB

/-- The point of R253 from a root `y`: the larger of `y` and `−y` as integers if the selector is 1, else the smaller. -/
def decodedPoint (p : Params) (x : Nat) (larger : Bool) (y : Nat) : Affine :=
  ⟨x, if larger then max y (negMod p.q y) else min y (negMod p.q y), 0⟩

/-- `pdec.g1 rd, ra, sign` (R253). The selector is bit 0 of the immediate; an immediate above 1 is an illegal encoding
(60_exceptions.md R333). -/
def pdecCommand (p : Params) (rd ra : CellIdx) (sign : Imm) (s : State) : Result :=
  if sign.toNat ≤ 1 then
    command [elemSource (primeElem p.q) ra] [elemDest (affElem p) rd] s
      (let x := loadElem (primeElem p.q) s ra
       storeRoot (affElem p) s rd (decodedPoint p x (sign.getLsbD 0)) (sqrtMod p.fq (curveRhs p x)))
  else command [] [] s (.next (takeFault .illegal s))

/-- `sqrt.fq rd, ra` (R305). -/
def execSqrtFq (rd ra : CellIdx) (s : State) : Result := sqrtCommand Config.params.fq rd ra s

/-- `sqrt.fr rd, ra` (R305). -/
def execSqrtFr (rd ra : CellIdx) (s : State) : Result := sqrtCommand Config.params.fr rd ra s

/-- `pdec.g1 rd, ra, sign` (R253). -/
def execPdec (rd ra : CellIdx) (sign : Imm) (s : State) : Result := pdecCommand Config.params rd ra sign s

end Sys2Proof.Machine
end

