-- ==== Sys2Proof/Machine/System.lean ====
section
/-! DEFINITION. The system commands `nop`, `ld`, `st`, `mov`, `ldi` (49_host_and_control.md R320 to R324). -/

namespace Sys2Proof.Machine

/-- `ld` on a block of `limbs` limbs a cell: the cell takes the payload's integer as it is. A payload of another length
is outside the spec (20_memory.md R33). -/
def ldCommand (limbs : Nat) (rd : CellIdx) (s : State) : Result :=
  command [] [elemDest rawElem rd] s
    (if s.payload.length = limbs then .next (storeElem rawElem s rd (payloadValue s.payload))
     else .refused .badPayload)

/-- `st` on a block of `limbs` limbs a cell: the cell's integer is sent. -/
def stCommand (limbs : Nat) (ra : CellIdx) (s : State) : Result :=
  command [elemSource rawElem ra] [] s
    (.next { s with portOut := limbsOf limbs (loadElem rawElem s ra) })

/-- `nop`: nothing; the response carries `STATUS` and `FCMD` (R320). -/
def execNop (s : State) : Result := command [] [] s (.next s)

/-- `ld rd`: `x[rd] <- PortIn()`, no check of the value (R321). -/
def execLd (rd : CellIdx) (s : State) : Result := ldCommand Config.params.limbs rd s

/-- `st ra`: `PortOut(rdraw(ra))` (R322). -/
def execSt (ra : CellIdx) (s : State) : Result := stCommand Config.params.limbs ra s

/-- `mov rd, ra, n`: a raw copy of `n` cells, all reads first (R323, 20_memory.md R38). -/
def execMov (rd ra : CellIdx) (n : Imm) (s : State) : Result :=
  command [vectorSource rawElem ra n.toNat] [vectorDest rawElem rd n.toNat] s
    (.next (s.write rd.toNat (loadVector rawElem s ra n.toNat)))

/-- `ldi rd, imm`: `x[rd] <- zext_W(imm)` (R324). -/
def execLdi (rd : CellIdx) (imm : Imm) (s : State) : Result := constCommand rawElem imm.toNat rd s

end Sys2Proof.Machine
end

