-- ==== Sys2Proof/Machine/TowerCommands.lean ====
section
/-! DEFINITION. The commands of the Field capability of `Fq2`, `Fq6` and `Fq12` (42_extension_tower.md R142 to R186). -/

namespace Sys2Proof.Machine

/-- `zero.fq2`: the zero of the field (R142). -/
def execZeroFq2 (rd : CellIdx) (s : State) : Result := constCommand (fq2Elem Config.params) fq2Zero rd s

/-- `zero.fq6`: the zero of the field (R157). -/
def execZeroFq6 (rd : CellIdx) (s : State) : Result := constCommand (fq6Elem Config.params) fq6Zero rd s

/-- `zero.fq12`: the zero of the field (R172). -/
def execZeroFq12 (rd : CellIdx) (s : State) : Result := constCommand (fq12Elem Config.params) fq12Zero rd s

/-- `one.fq2`: the one of the field (R143). -/
def execOneFq2 (rd : CellIdx) (s : State) : Result := constCommand (fq2Elem Config.params) fq2One rd s

/-- `one.fq6`: the one of the field (R158). -/
def execOneFq6 (rd : CellIdx) (s : State) : Result := constCommand (fq6Elem Config.params) fq6One rd s

/-- `one.fq12`: the one of the field (R173). -/
def execOneFq12 (rd : CellIdx) (s : State) : Result := constCommand (fq12Elem Config.params) fq12One rd s

/-- `isz.fq2`: `T <- (a = 0)` (R144). -/
def execIszFq2 (ra : CellIdx) (s : State) : Result :=
  testCommand (fq2Elem Config.params) (fun a => decide (a = fq2Zero)) ra s

/-- `isz.fq6`: `T <- (a = 0)` (R159). -/
def execIszFq6 (ra : CellIdx) (s : State) : Result :=
  testCommand (fq6Elem Config.params) (fun a => decide (a = fq6Zero)) ra s

/-- `isz.fq12`: `T <- (a = 0)` (R174). -/
def execIszFq12 (ra : CellIdx) (s : State) : Result :=
  testCommand (fq12Elem Config.params) (fun a => decide (a = fq12Zero)) ra s

/-- `isone.fq2`: `T <- (a = 1)` (R145). -/
def execIsoneFq2 (ra : CellIdx) (s : State) : Result :=
  testCommand (fq2Elem Config.params) (fun a => decide (a = fq2One)) ra s

/-- `isone.fq6`: `T <- (a = 1)` (R160). -/
def execIsoneFq6 (ra : CellIdx) (s : State) : Result :=
  testCommand (fq6Elem Config.params) (fun a => decide (a = fq6One)) ra s

/-- `isone.fq12`: `T <- (a = 1)` (R175). -/
def execIsoneFq12 (ra : CellIdx) (s : State) : Result :=
  testCommand (fq12Elem Config.params) (fun a => decide (a = fq12One)) ra s

/-- `eq.fq2`: `T <- (a = b)` (R146). -/
def execEqFq2 (ra rb : CellIdx) (s : State) : Result :=
  compareCommand (fq2Elem Config.params) (fq2Elem Config.params) (fun a b => decide (a = b)) ra rb s

/-- `eq.fq6`: `T <- (a = b)` (R161). -/
def execEqFq6 (ra rb : CellIdx) (s : State) : Result :=
  compareCommand (fq6Elem Config.params) (fq6Elem Config.params) (fun a b => decide (a = b)) ra rb s

/-- `eq.fq12`: `T <- (a = b)` (R176). -/
def execEqFq12 (ra rb : CellIdx) (s : State) : Result :=
  compareCommand (fq12Elem Config.params) (fq12Elem Config.params) (fun a b => decide (a = b)) ra rb s

/-- `add.fq2`: the sum (R147). -/
def execAddFq2 (rd ra rb : CellIdx) (s : State) : Result :=
  binaryCommand (fq2Elem Config.params) (fq2Elem Config.params) (fq2Elem Config.params)
    (fq2Add Config.params) rd ra rb s

/-- `add.fq6`: the sum (R162). -/
def execAddFq6 (rd ra rb : CellIdx) (s : State) : Result :=
  binaryCommand (fq6Elem Config.params) (fq6Elem Config.params) (fq6Elem Config.params)
    (fq6Add Config.params) rd ra rb s

/-- `add.fq12`: the sum (R177). -/
def execAddFq12 (rd ra rb : CellIdx) (s : State) : Result :=
  binaryCommand (fq12Elem Config.params) (fq12Elem Config.params) (fq12Elem Config.params)
    (fq12Add Config.params) rd ra rb s

/-- `sub.fq2`: the difference (R148). -/
def execSubFq2 (rd ra rb : CellIdx) (s : State) : Result :=
  binaryCommand (fq2Elem Config.params) (fq2Elem Config.params) (fq2Elem Config.params)
    (fq2Sub Config.params) rd ra rb s

/-- `sub.fq6`: the difference (R163). -/
def execSubFq6 (rd ra rb : CellIdx) (s : State) : Result :=
  binaryCommand (fq6Elem Config.params) (fq6Elem Config.params) (fq6Elem Config.params)
    (fq6Sub Config.params) rd ra rb s

/-- `sub.fq12`: the difference (R178). -/
def execSubFq12 (rd ra rb : CellIdx) (s : State) : Result :=
  binaryCommand (fq12Elem Config.params) (fq12Elem Config.params) (fq12Elem Config.params)
    (fq12Sub Config.params) rd ra rb s

/-- `mul.fq2`: the product (R149). -/
def execMulFq2 (rd ra rb : CellIdx) (s : State) : Result :=
  binaryCommand (fq2Elem Config.params) (fq2Elem Config.params) (fq2Elem Config.params)
    (fq2Mul Config.params) rd ra rb s

/-- `mul.fq6`: the product (R164). -/
def execMulFq6 (rd ra rb : CellIdx) (s : State) : Result :=
  binaryCommand (fq6Elem Config.params) (fq6Elem Config.params) (fq6Elem Config.params)
    (fq6Mul Config.params) rd ra rb s

/-- `mul.fq12`: the product (R179). -/
def execMulFq12 (rd ra rb : CellIdx) (s : State) : Result :=
  binaryCommand (fq12Elem Config.params) (fq12Elem Config.params) (fq12Elem Config.params)
    (fq12Mul Config.params) rd ra rb s

/-- `neg.fq2`: the negative (R150). -/
def execNegFq2 (rd ra : CellIdx) (s : State) : Result :=
  unaryCommand (fq2Elem Config.params) (fq2Elem Config.params) (fq2Neg Config.params) rd ra s

/-- `neg.fq6`: the negative (R165). -/
def execNegFq6 (rd ra : CellIdx) (s : State) : Result :=
  unaryCommand (fq6Elem Config.params) (fq6Elem Config.params) (fq6Neg Config.params) rd ra s

/-- `neg.fq12`: the negative (R180). -/
def execNegFq12 (rd ra : CellIdx) (s : State) : Result :=
  unaryCommand (fq12Elem Config.params) (fq12Elem Config.params) (fq12Neg Config.params) rd ra s

/-- `dbl.fq2`: the double (R151). -/
def execDblFq2 (rd ra : CellIdx) (s : State) : Result :=
  unaryCommand (fq2Elem Config.params) (fq2Elem Config.params) (fq2Dbl Config.params) rd ra s

/-- `dbl.fq6`: the double (R166). -/
def execDblFq6 (rd ra : CellIdx) (s : State) : Result :=
  unaryCommand (fq6Elem Config.params) (fq6Elem Config.params) (fq6Dbl Config.params) rd ra s

/-- `dbl.fq12`: the double (R181). -/
def execDblFq12 (rd ra : CellIdx) (s : State) : Result :=
  unaryCommand (fq12Elem Config.params) (fq12Elem Config.params) (fq12Dbl Config.params) rd ra s

/-- `sqr.fq2`: the square (R152). -/
def execSqrFq2 (rd ra : CellIdx) (s : State) : Result :=
  unaryCommand (fq2Elem Config.params) (fq2Elem Config.params) (fq2Sqr Config.params) rd ra s

/-- `sqr.fq6`: the square (R167). -/
def execSqrFq6 (rd ra : CellIdx) (s : State) : Result :=
  unaryCommand (fq6Elem Config.params) (fq6Elem Config.params) (fq6Sqr Config.params) rd ra s

/-- `sqr.fq12`: the square (R182). -/
def execSqrFq12 (rd ra : CellIdx) (s : State) : Result :=
  unaryCommand (fq12Elem Config.params) (fq12Elem Config.params) (fq12Sqr Config.params) rd ra s

/-- `inv.fq2`: the inverse, `None` for zero (R153). -/
def execInvFq2 (rd ra : CellIdx) (s : State) : Result :=
  partialUnaryCommand (fq2Elem Config.params) (fq2Elem Config.params) (fq2Inv Config.params) rd ra s

/-- `inv.fq6`: the inverse, `None` for zero (R168). -/
def execInvFq6 (rd ra : CellIdx) (s : State) : Result :=
  partialUnaryCommand (fq6Elem Config.params) (fq6Elem Config.params) (fq6Inv Config.params) rd ra s

/-- `inv.fq12`: the inverse, `None` for zero (R183). -/
def execInvFq12 (rd ra : CellIdx) (s : State) : Result :=
  partialUnaryCommand (fq12Elem Config.params) (fq12Elem Config.params) (fq12Inv Config.params) rd ra s

/-- `div.fq2`: the quotient, `None` for a zero divisor (R154). -/
def execDivFq2 (rd ra rb : CellIdx) (s : State) : Result :=
  partialBinaryCommand (fq2Elem Config.params) (fq2Elem Config.params) (fq2Elem Config.params)
    (divideBy (fq2Mul Config.params) (fq2Inv Config.params)) rd ra rb s

/-- `div.fq6`: the quotient, `None` for a zero divisor (R169). -/
def execDivFq6 (rd ra rb : CellIdx) (s : State) : Result :=
  partialBinaryCommand (fq6Elem Config.params) (fq6Elem Config.params) (fq6Elem Config.params)
    (divideBy (fq6Mul Config.params) (fq6Inv Config.params)) rd ra rb s

/-- `div.fq12`: the quotient, `None` for a zero divisor (R184). -/
def execDivFq12 (rd ra rb : CellIdx) (s : State) : Result :=
  partialBinaryCommand (fq12Elem Config.params) (fq12Elem Config.params) (fq12Elem Config.params)
    (divideBy (fq12Mul Config.params) (fq12Inv Config.params)) rd ra rb s

/-- `pow.fq2`: `a^e`, `e` a raw cell (R155). -/
def execPowFq2 (rd ra rb : CellIdx) (s : State) : Result :=
  binaryCommand (fq2Elem Config.params) rawElem (fq2Elem Config.params) (fq2Pow Config.params) rd ra rb s

/-- `pow.fq6`: `a^e`, `e` a raw cell (R170). -/
def execPowFq6 (rd ra rb : CellIdx) (s : State) : Result :=
  binaryCommand (fq6Elem Config.params) rawElem (fq6Elem Config.params) (fq6Pow Config.params) rd ra rb s

/-- `pow.fq12`: `a^e`, `e` a raw cell (R185). -/
def execPowFq12 (rd ra rb : CellIdx) (s : State) : Result :=
  binaryCommand (fq12Elem Config.params) rawElem (fq12Elem Config.params) (fq12Pow Config.params) rd ra rb s

/-- `sop.fq2`: the sum of `n` products (R156). -/
def execSopFq2 (rd ra rb : CellIdx) (n : Imm) (s : State) : Result :=
  sopCommand (fq2Elem Config.params) fq2Zero (fq2Add Config.params) (fq2Mul Config.params) rd ra rb n s

/-- `sop.fq6`: the sum of `n` products (R171). -/
def execSopFq6 (rd ra rb : CellIdx) (n : Imm) (s : State) : Result :=
  sopCommand (fq6Elem Config.params) fq6Zero (fq6Add Config.params) (fq6Mul Config.params) rd ra rb n s

/-- `sop.fq12`: the sum of `n` products (R186). -/
def execSopFq12 (rd ra rb : CellIdx) (n : Imm) (s : State) : Result :=
  sopCommand (fq12Elem Config.params) fq12Zero (fq12Add Config.params) (fq12Mul Config.params) rd ra rb n s

end Sys2Proof.Machine
end

