-- ==== Sys2Proof/Machine/Dispatch.lean ====
section
/-! DEFINITION. `exec`: the meaning of every command, one arm per constructor of `Instr` (30_encoding.md R54). -/

namespace Sys2Proof.Machine

def exec (i : Instr) (s : State) : Host.Outcome State Fault Refusal :=
  match i with
  | .nop => Sys2Proof.Machine.execNop s
  | .ld rd => Sys2Proof.Machine.execLd rd s
  | .st ra => Sys2Proof.Machine.execSt ra s
  | .mov rd ra n => Sys2Proof.Machine.execMov rd ra n s
  | .ldi rd imm => Sys2Proof.Machine.execLdi rd imm s
  | .zeroFq rd => Sys2Proof.Machine.execZeroFq rd s
  | .zeroFr rd => Sys2Proof.Machine.execZeroFr rd s
  | .zeroFq2 rd => Sys2Proof.Machine.execZeroFq2 rd s
  | .zeroFq6 rd => Sys2Proof.Machine.execZeroFq6 rd s
  | .zeroFq12 rd => Sys2Proof.Machine.execZeroFq12 rd s
  | .oneFq rd => Sys2Proof.Machine.execOneFq rd s
  | .oneFr rd => Sys2Proof.Machine.execOneFr rd s
  | .oneFq2 rd => Sys2Proof.Machine.execOneFq2 rd s
  | .oneFq6 rd => Sys2Proof.Machine.execOneFq6 rd s
  | .oneFq12 rd => Sys2Proof.Machine.execOneFq12 rd s
  | .iszFq ra => Sys2Proof.Machine.execIszFq ra s
  | .iszFr ra => Sys2Proof.Machine.execIszFr ra s
  | .iszFq2 ra => Sys2Proof.Machine.execIszFq2 ra s
  | .iszFq6 ra => Sys2Proof.Machine.execIszFq6 ra s
  | .iszFq12 ra => Sys2Proof.Machine.execIszFq12 ra s
  | .isoneFq ra => Sys2Proof.Machine.execIsoneFq ra s
  | .isoneFr ra => Sys2Proof.Machine.execIsoneFr ra s
  | .isoneFq2 ra => Sys2Proof.Machine.execIsoneFq2 ra s
  | .isoneFq6 ra => Sys2Proof.Machine.execIsoneFq6 ra s
  | .isoneFq12 ra => Sys2Proof.Machine.execIsoneFq12 ra s
  | .eqFq ra rb => Sys2Proof.Machine.execEqFq ra rb s
  | .eqFr ra rb => Sys2Proof.Machine.execEqFr ra rb s
  | .eqFq2 ra rb => Sys2Proof.Machine.execEqFq2 ra rb s
  | .eqFq6 ra rb => Sys2Proof.Machine.execEqFq6 ra rb s
  | .eqFq12 ra rb => Sys2Proof.Machine.execEqFq12 ra rb s
  | .addFq rd ra rb => Sys2Proof.Machine.execAddFq rd ra rb s
  | .addFr rd ra rb => Sys2Proof.Machine.execAddFr rd ra rb s
  | .addFq2 rd ra rb => Sys2Proof.Machine.execAddFq2 rd ra rb s
  | .addFq6 rd ra rb => Sys2Proof.Machine.execAddFq6 rd ra rb s
  | .addFq12 rd ra rb => Sys2Proof.Machine.execAddFq12 rd ra rb s
  | .subFq rd ra rb => Sys2Proof.Machine.execSubFq rd ra rb s
  | .subFr rd ra rb => Sys2Proof.Machine.execSubFr rd ra rb s
  | .subFq2 rd ra rb => Sys2Proof.Machine.execSubFq2 rd ra rb s
  | .subFq6 rd ra rb => Sys2Proof.Machine.execSubFq6 rd ra rb s
  | .subFq12 rd ra rb => Sys2Proof.Machine.execSubFq12 rd ra rb s
  | .mulFq rd ra rb => Sys2Proof.Machine.execMulFq rd ra rb s
  | .mulFr rd ra rb => Sys2Proof.Machine.execMulFr rd ra rb s
  | .mulFq2 rd ra rb => Sys2Proof.Machine.execMulFq2 rd ra rb s
  | .mulFq6 rd ra rb => Sys2Proof.Machine.execMulFq6 rd ra rb s
  | .mulFq12 rd ra rb => Sys2Proof.Machine.execMulFq12 rd ra rb s
  | .negFq rd ra => Sys2Proof.Machine.execNegFq rd ra s
  | .negFr rd ra => Sys2Proof.Machine.execNegFr rd ra s
  | .negFq2 rd ra => Sys2Proof.Machine.execNegFq2 rd ra s
  | .negFq6 rd ra => Sys2Proof.Machine.execNegFq6 rd ra s
  | .negFq12 rd ra => Sys2Proof.Machine.execNegFq12 rd ra s
  | .dblFq rd ra => Sys2Proof.Machine.execDblFq rd ra s
  | .dblFr rd ra => Sys2Proof.Machine.execDblFr rd ra s
  | .dblFq2 rd ra => Sys2Proof.Machine.execDblFq2 rd ra s
  | .dblFq6 rd ra => Sys2Proof.Machine.execDblFq6 rd ra s
  | .dblFq12 rd ra => Sys2Proof.Machine.execDblFq12 rd ra s
  | .sqrFq rd ra => Sys2Proof.Machine.execSqrFq rd ra s
  | .sqrFr rd ra => Sys2Proof.Machine.execSqrFr rd ra s
  | .sqrFq2 rd ra => Sys2Proof.Machine.execSqrFq2 rd ra s
  | .sqrFq6 rd ra => Sys2Proof.Machine.execSqrFq6 rd ra s
  | .sqrFq12 rd ra => Sys2Proof.Machine.execSqrFq12 rd ra s
  | .invFq rd ra => Sys2Proof.Machine.execInvFq rd ra s
  | .invFr rd ra => Sys2Proof.Machine.execInvFr rd ra s
  | .invFq2 rd ra => Sys2Proof.Machine.execInvFq2 rd ra s
  | .invFq6 rd ra => Sys2Proof.Machine.execInvFq6 rd ra s
  | .invFq12 rd ra => Sys2Proof.Machine.execInvFq12 rd ra s
  | .divFq rd ra rb => Sys2Proof.Machine.execDivFq rd ra rb s
  | .divFr rd ra rb => Sys2Proof.Machine.execDivFr rd ra rb s
  | .divFq2 rd ra rb => Sys2Proof.Machine.execDivFq2 rd ra rb s
  | .divFq6 rd ra rb => Sys2Proof.Machine.execDivFq6 rd ra rb s
  | .divFq12 rd ra rb => Sys2Proof.Machine.execDivFq12 rd ra rb s
  | .powFq rd ra rb => Sys2Proof.Machine.execPowFq rd ra rb s
  | .powFr rd ra rb => Sys2Proof.Machine.execPowFr rd ra rb s
  | .powFq2 rd ra rb => Sys2Proof.Machine.execPowFq2 rd ra rb s
  | .powFq6 rd ra rb => Sys2Proof.Machine.execPowFq6 rd ra rb s
  | .powFq12 rd ra rb => Sys2Proof.Machine.execPowFq12 rd ra rb s
  | .sopFq rd ra rb n => Sys2Proof.Machine.execSopFq rd ra rb n s
  | .sopFr rd ra rb n => Sys2Proof.Machine.execSopFr rd ra rb n s
  | .sopFq2 rd ra rb n => Sys2Proof.Machine.execSopFq2 rd ra rb n s
  | .sopFq6 rd ra rb n => Sys2Proof.Machine.execSopFq6 rd ra rb n s
  | .sopFq12 rd ra rb n => Sys2Proof.Machine.execSopFq12 rd ra rb n s
  | .charFq rd => Sys2Proof.Machine.execCharFq rd s
  | .charFr rd => Sys2Proof.Machine.execCharFr rd s
  | .legFq ra => Sys2Proof.Machine.execLegFq ra s
  | .legFr ra => Sys2Proof.Machine.execLegFr ra s
  | .sqrtFq rd ra => Sys2Proof.Machine.execSqrtFq rd ra s
  | .sqrtFr rd ra => Sys2Proof.Machine.execSqrtFr rd ra s
  | .redFq rd ra => Sys2Proof.Machine.execRedFq rd ra s
  | .redFr rd ra => Sys2Proof.Machine.execRedFr rd ra s
  | .frobFq2 rd ra k => Sys2Proof.Machine.execFrobFq2 rd ra k s
  | .frobFq6 rd ra k => Sys2Proof.Machine.execFrobFq6 rd ra k s
  | .frobFq12 rd ra k => Sys2Proof.Machine.execFrobFq12 rd ra k s
  | .mulnrFq rd ra => Sys2Proof.Machine.execMulnrFq rd ra s
  | .mulnrFq2 rd ra => Sys2Proof.Machine.execMulnrFq2 rd ra s
  | .mulnrFq6 rd ra => Sys2Proof.Machine.execMulnrFq6 rd ra s
  | .mul01Fq6 rd ra rb => Sys2Proof.Machine.execMul01Fq6 rd ra rb s
  | .mul014Fq12 rd ra rb => Sys2Proof.Machine.execMul014Fq12 rd ra rb s
  | .mul034Fq12 rd ra rb => Sys2Proof.Machine.execMul034Fq12 rd ra rb s
  | .cycsqrFq12 rd ra => Sys2Proof.Machine.execCycsqrFq12 rd ra s
  | .cycexpFq12 rd ra rb => Sys2Proof.Machine.execCycexpFq12 rd ra rb s
  | .pzero rd => Sys2Proof.Machine.execPzero rd s
  | .pisz ra => Sys2Proof.Machine.execPisz ra s
  | .aisz ra => Sys2Proof.Machine.execAisz ra s
  | .pdbl rd ra => Sys2Proof.Machine.execPdbl rd ra s
  | .padd rd ra rb => Sys2Proof.Machine.execPadd rd ra rb s
  | .paddm rd ra rb => Sys2Proof.Machine.execPaddm rd ra rb s
  | .aneg rd ra => Sys2Proof.Machine.execAneg rd ra s
  | .peq ra rb => Sys2Proof.Machine.execPeq ra rb s
  | .a2p rd ra => Sys2Proof.Machine.execA2p rd ra s
  | .p2a rd ra => Sys2Proof.Machine.execP2a rd ra s
  | .bnorm rd n => Sys2Proof.Machine.execBnorm rd n s
  | .pgen rd => Sys2Proof.Machine.execPgen rd s
  | .cof rd => Sys2Proof.Machine.execCof rd s
  | .pdec rd ra sign => Sys2Proof.Machine.execPdec rd ra sign s
  | .pmuln rd ra rb => Sys2Proof.Machine.execPmuln rd ra rb s
  | .pmul rd ra rb => Sys2Proof.Machine.execPmul rd ra rb s

end Sys2Proof.Machine
end

