-- ==== Sys2Proof/Machine/Transaction.lean ====
section
/-! DEFINITION. One transaction at the port (20_memory.md R32): what the host may send, refusal while `FLT = 1`,
decoding, execution and the response. -/

namespace Sys2Proof.Machine

/-- The host's duty (20_memory.md R33): `ld` comes with exactly `limbs` limbs, any other word with none. -/
def payloadLegal (limbs : Nat) (w : CmdWord) (payload : List Limb) : Bool :=
  match decode w with
  | .ok (.ld _) => decide (payload.length = limbs)
  | _ => payload.isEmpty

/-- The response closes a transaction whose command completed. -/
def respondTo : Result → Result
  | .next t => .next t.respond
  | .fault r => .fault r
  | .refused r => .refused r

/-- The block's part of a transaction (R32): with `FLT = 1` the word is not even decoded and the response carries the
unchanged registers (60_exceptions.md R337); an illegal word faults `ILLEGAL` (30_encoding.md R55); a legal one runs to
completion (R40). -/
def serve (w : CmdWord) (s : State) : Result :=
  if s.flt then .next s.respond
  else match decode w with
    | .error _ => .next (takeFault .illegal s).respond
    | .ok i => respondTo (exec i s)

/-- What the host does next, and what the block makes of it: nothing (60_exceptions.md R350: "between transactions the
block holds its state and does nothing"), reset (R360), or a transaction (R32). -/
def transact (s : State) : Result :=
  match s.inbox with
  | [] => .next s
  | .reset :: rest => .next (resetBlock { s with inbox := rest })
  | .command w payload :: rest =>
    if payloadLegal Config.params.limbs w payload then serve w (s.begin w payload rest)
    else .refused .badPayload

end Sys2Proof.Machine
end

