-- ==== Sys2Proof/Machine/Step.lean ====
section
/-! DEFINITION. `step`: one event at the host port (20_memory.md R40: each command is one atomic transition), and how a
command word comes to be the next one. -/

namespace Sys2Proof.Machine

/-- One step: the next event the host raises, executed to completion (20_memory.md R40). -/
def step (s : State) : Result := transact s

/-- `s` with a transaction of the word `w` as the host's next event, its payload, if the word is a legal `ld`, `LIMBS`
limbs of 0. The block fetches nothing: a command comes from the host at issue (20_memory.md R44; log 6). -/
def State.withFetchWord (s : State) (nbits w : Nat) : State :=
  let word : CmdWord := BitVec.ofNat 64 (w % 2 ^ nbits)
  let payload : List Limb :=
    match decode word with
    | .ok (.ld _) => List.replicate Config.params.limbs 0
    | _ => []
  { s with inbox := .command word payload :: s.inbox }

end Sys2Proof.Machine
end

