-- ==== Sys2Proof/Safety/Masks.lean ====
section
/-! DEFINITION. The rows of spec/opcode_table.json as it writes them, a mask and a pattern each (30_encoding.md R54, R55).
The decoder does not use them; a statement says that they and the decoder agree. -/

namespace Sys2Proof

/-- The system commands. -/
def systemMasks : List (CmdWord × CmdWord) := [
  (0xFFFFFFFFFFFFFFFF, 0x0000000000000F00), (0xFFFFFFFFFF00FFFF, 0x0000000000000F01),
  (0xFFFFFFFF00FFFFFF, 0x0000000000000F02), (0x0000FFFF0000FFFF, 0x0000000000000F03),
  (0x0000FFFFFF00FFFF, 0x0000000000000F04)]

/-- `zero`, `one`, `isz`, `isone`, `eq`, `char`, `leg`. -/
def predicateMasks : List (CmdWord × CmdWord) := [
  (0xFFFFFFFFFF00FFFF, 0x0000000000000010), (0xFFFFFFFFFF00FFFF, 0x0000000000000110),
  (0xFFFFFFFFFF00FFFF, 0x0000000000000210), (0xFFFFFFFFFF00FFFF, 0x0000000000000310),
  (0xFFFFFFFFFF00FFFF, 0x0000000000000410), (0xFFFFFFFFFF00FFFF, 0x0000000000000011),
  (0xFFFFFFFFFF00FFFF, 0x0000000000000111), (0xFFFFFFFFFF00FFFF, 0x0000000000000211),
  (0xFFFFFFFFFF00FFFF, 0x0000000000000311), (0xFFFFFFFFFF00FFFF, 0x0000000000000411),
  (0xFFFFFFFF00FFFFFF, 0x0000000000000012), (0xFFFFFFFF00FFFFFF, 0x0000000000000112),
  (0xFFFFFFFF00FFFFFF, 0x0000000000000212), (0xFFFFFFFF00FFFFFF, 0x0000000000000312),
  (0xFFFFFFFF00FFFFFF, 0x0000000000000412), (0xFFFFFFFF00FFFFFF, 0x0000000000000013),
  (0xFFFFFFFF00FFFFFF, 0x0000000000000113), (0xFFFFFFFF00FFFFFF, 0x0000000000000213),
  (0xFFFFFFFF00FFFFFF, 0x0000000000000313), (0xFFFFFFFF00FFFFFF, 0x0000000000000413),
  (0xFFFFFF0000FFFFFF, 0x0000000000000014), (0xFFFFFF0000FFFFFF, 0x0000000000000114),
  (0xFFFFFF0000FFFFFF, 0x0000000000000214), (0xFFFFFF0000FFFFFF, 0x0000000000000314),
  (0xFFFFFF0000FFFFFF, 0x0000000000000414), (0xFFFFFFFFFF00FFFF, 0x000000000000001F),
  (0xFFFFFFFFFF00FFFF, 0x000000000000011F), (0xFFFFFFFF00FFFFFF, 0x0000000000000020),
  (0xFFFFFFFF00FFFFFF, 0x0000000000000120)]

/-- `add`, `sub`, `mul`, `neg`, `dbl`, `sqr`. -/
def ringMasks : List (CmdWord × CmdWord) := [
  (0xFFFFFF000000FFFF, 0x0000000000000015), (0xFFFFFF000000FFFF, 0x0000000000000115),
  (0xFFFFFF000000FFFF, 0x0000000000000215), (0xFFFFFF000000FFFF, 0x0000000000000315),
  (0xFFFFFF000000FFFF, 0x0000000000000415), (0xFFFFFF000000FFFF, 0x0000000000000016),
  (0xFFFFFF000000FFFF, 0x0000000000000116), (0xFFFFFF000000FFFF, 0x0000000000000216),
  (0xFFFFFF000000FFFF, 0x0000000000000316), (0xFFFFFF000000FFFF, 0x0000000000000416),
  (0xFFFFFF000000FFFF, 0x0000000000000017), (0xFFFFFF000000FFFF, 0x0000000000000117),
  (0xFFFFFF000000FFFF, 0x0000000000000217), (0xFFFFFF000000FFFF, 0x0000000000000317),
  (0xFFFFFF000000FFFF, 0x0000000000000417), (0xFFFFFFFF0000FFFF, 0x0000000000000018),
  (0xFFFFFFFF0000FFFF, 0x0000000000000118), (0xFFFFFFFF0000FFFF, 0x0000000000000218),
  (0xFFFFFFFF0000FFFF, 0x0000000000000318), (0xFFFFFFFF0000FFFF, 0x0000000000000418),
  (0xFFFFFFFF0000FFFF, 0x0000000000000019), (0xFFFFFFFF0000FFFF, 0x0000000000000119),
  (0xFFFFFFFF0000FFFF, 0x0000000000000219), (0xFFFFFFFF0000FFFF, 0x0000000000000319),
  (0xFFFFFFFF0000FFFF, 0x0000000000000419), (0xFFFFFFFF0000FFFF, 0x000000000000001A),
  (0xFFFFFFFF0000FFFF, 0x000000000000011A), (0xFFFFFFFF0000FFFF, 0x000000000000021A),
  (0xFFFFFFFF0000FFFF, 0x000000000000031A), (0xFFFFFFFF0000FFFF, 0x000000000000041A)]

/-- `inv`, `div`, `pow`, `sop`, `sqrt`, `red`, and the tower's own commands. -/
def fieldMasks : List (CmdWord × CmdWord) := [
  (0xFFFFFFFF0000FFFF, 0x000000000000001B), (0xFFFFFFFF0000FFFF, 0x000000000000011B),
  (0xFFFFFFFF0000FFFF, 0x000000000000021B), (0xFFFFFFFF0000FFFF, 0x000000000000031B),
  (0xFFFFFFFF0000FFFF, 0x000000000000041B), (0xFFFFFF000000FFFF, 0x000000000000001C),
  (0xFFFFFF000000FFFF, 0x000000000000011C), (0xFFFFFF000000FFFF, 0x000000000000021C),
  (0xFFFFFF000000FFFF, 0x000000000000031C), (0xFFFFFF000000FFFF, 0x000000000000041C),
  (0xFFFFFF000000FFFF, 0x000000000000001D), (0xFFFFFF000000FFFF, 0x000000000000011D),
  (0xFFFFFF000000FFFF, 0x000000000000021D), (0xFFFFFF000000FFFF, 0x000000000000031D),
  (0xFFFFFF000000FFFF, 0x000000000000041D), (0x0000FF000000FFFF, 0x000000000000001E),
  (0x0000FF000000FFFF, 0x000000000000011E), (0x0000FF000000FFFF, 0x000000000000021E),
  (0x0000FF000000FFFF, 0x000000000000031E), (0x0000FF000000FFFF, 0x000000000000041E),
  (0xFFFFFFFF0000FFFF, 0x0000000000000021), (0xFFFFFFFF0000FFFF, 0x0000000000000121),
  (0xFFFFFFFF0000FFFF, 0x0000000000000022), (0xFFFFFFFF0000FFFF, 0x0000000000000122),
  (0x0000FFFF0000FFFF, 0x0000000000000228), (0x0000FFFF0000FFFF, 0x0000000000000328),
  (0x0000FFFF0000FFFF, 0x0000000000000428), (0xFFFFFFFF0000FFFF, 0x0000000000000029),
  (0xFFFFFFFF0000FFFF, 0x0000000000000229), (0xFFFFFFFF0000FFFF, 0x0000000000000329),
  (0xFFFFFF000000FFFF, 0x000000000000032A), (0xFFFFFF000000FFFF, 0x000000000000042B),
  (0xFFFFFF000000FFFF, 0x000000000000042C), (0xFFFFFFFF0000FFFF, 0x000000000000042D),
  (0xFFFFFF000000FFFF, 0x000000000000042E)]

/-- The curve commands. -/
def curveMasks : List (CmdWord × CmdWord) := [
  (0xFFFFFFFFFF00FFFF, 0x0000000000000540), (0xFFFFFFFF00FFFFFF, 0x0000000000000541),
  (0xFFFFFFFF00FFFFFF, 0x0000000000000542), (0xFFFFFFFF0000FFFF, 0x0000000000000543),
  (0xFFFFFF000000FFFF, 0x0000000000000544), (0xFFFFFF000000FFFF, 0x0000000000000545),
  (0xFFFFFFFF0000FFFF, 0x0000000000000546), (0xFFFFFF0000FFFFFF, 0x0000000000000547),
  (0xFFFFFFFF0000FFFF, 0x0000000000000548), (0xFFFFFFFF0000FFFF, 0x0000000000000549),
  (0x0000FFFFFF00FFFF, 0x000000000000054A), (0xFFFFFFFFFF00FFFF, 0x000000000000054B),
  (0xFFFFFFFFFF00FFFF, 0x000000000000054C), (0xFFFEFFFF0000FFFF, 0x000000000000054D),
  (0xFFFFFF000000FFFF, 0x000000000000054E), (0xFFFFFF000000FFFF, 0x000000000000054F)]

/-- All 115 rows. -/
def maskRows : List (CmdWord × CmdWord) := systemMasks ++ predicateMasks ++ ringMasks ++ fieldMasks ++ curveMasks

end Sys2Proof
end

