-- ==== Sys2Proof/Safety.lean ====
section
/-! DEFINITION. What a safe run is, in the terms the statements use: the operands of every command as the rules list
them, the violations a command can be charged with (60_exceptions.md R333 to R335), which command writes which flag
(10_state.md R16), and the invariant that every step keeps. Nothing here is used by the machine. -/

namespace Sys2Proof.Machine

/-! ### The operands of a command (10_state.md R12) -/

/-- One raw cell. -/
def rawAt (i : CellIdx) : Source := ⟨i.toNat, [.raw], 1⟩

/-- One `Fq` element. -/
def fqAt (i : CellIdx) : Source := ⟨i.toNat, [.modulus Config.params.q], 1⟩

/-- One `Fr` element. -/
def frAt (i : CellIdx) : Source := ⟨i.toNat, [.modulus Config.params.r], 1⟩

/-- `n` cells, each read as an `Fq` element: the footprint of a tower element or of a sparse operand. -/
def fqCellsAt (n : Nat) (i : CellIdx) : Source := ⟨i.toNat, List.replicate n (.modulus Config.params.q), 1⟩

/-- An affine point (R13). -/
def affAt (i : CellIdx) : Source := ⟨i.toNat, [.modulus Config.params.q, .modulus Config.params.q, .flag], 1⟩

/-- A Jacobian point (R14). -/
def jacAt (i : CellIdx) : Source := fqCellsAt 3 i

/-- `n` operands of one kind, one after the other. -/
def Source.times (o : Source) (n : Imm) : Source := { o with count := n.toNat }

/-- The source operands of a command, in the order of its fields. -/
def instrSources : Instr → List Source
  | .nop | .ld _ | .ldi _ _ => []
  | .zeroFq _ | .zeroFr _ | .zeroFq2 _ | .zeroFq6 _ | .zeroFq12 _ => []
  | .oneFq _ | .oneFr _ | .oneFq2 _ | .oneFq6 _ | .oneFq12 _ => []
  | .charFq _ | .charFr _ | .pzero _ | .pgen _ | .cof _ => []
  | .st ra => [rawAt ra]
  | .mov _ ra n => [(rawAt ra).times n]
  | .iszFq ra | .isoneFq ra | .legFq ra => [fqAt ra]
  | .iszFr ra | .isoneFr ra | .legFr ra => [frAt ra]
  | .iszFq2 ra | .isoneFq2 ra => [fqCellsAt 2 ra]
  | .iszFq6 ra | .isoneFq6 ra => [fqCellsAt 6 ra]
  | .iszFq12 ra | .isoneFq12 ra => [fqCellsAt 12 ra]
  | .eqFq ra rb => [fqAt ra, fqAt rb]
  | .eqFr ra rb => [frAt ra, frAt rb]
  | .eqFq2 ra rb => [fqCellsAt 2 ra, fqCellsAt 2 rb]
  | .eqFq6 ra rb => [fqCellsAt 6 ra, fqCellsAt 6 rb]
  | .eqFq12 ra rb => [fqCellsAt 12 ra, fqCellsAt 12 rb]
  | .addFq _ ra rb | .subFq _ ra rb | .mulFq _ ra rb | .divFq _ ra rb => [fqAt ra, fqAt rb]
  | .addFr _ ra rb | .subFr _ ra rb | .mulFr _ ra rb | .divFr _ ra rb => [frAt ra, frAt rb]
  | .addFq2 _ ra rb | .subFq2 _ ra rb | .mulFq2 _ ra rb | .divFq2 _ ra rb => [fqCellsAt 2 ra, fqCellsAt 2 rb]
  | .addFq6 _ ra rb | .subFq6 _ ra rb | .mulFq6 _ ra rb | .divFq6 _ ra rb => [fqCellsAt 6 ra, fqCellsAt 6 rb]
  | .addFq12 _ ra rb | .subFq12 _ ra rb | .mulFq12 _ ra rb | .divFq12 _ ra rb => [fqCellsAt 12 ra, fqCellsAt 12 rb]
  | .negFq _ ra | .dblFq _ ra | .sqrFq _ ra | .invFq _ ra | .sqrtFq _ ra | .mulnrFq _ ra | .pdec _ ra _ => [fqAt ra]
  | .negFr _ ra | .dblFr _ ra | .sqrFr _ ra | .invFr _ ra | .sqrtFr _ ra => [frAt ra]
  | .negFq2 _ ra | .dblFq2 _ ra | .sqrFq2 _ ra | .invFq2 _ ra | .mulnrFq2 _ ra | .frobFq2 _ ra _ => [fqCellsAt 2 ra]
  | .negFq6 _ ra | .dblFq6 _ ra | .sqrFq6 _ ra | .invFq6 _ ra | .mulnrFq6 _ ra | .frobFq6 _ ra _ => [fqCellsAt 6 ra]
  | .negFq12 _ ra | .dblFq12 _ ra | .sqrFq12 _ ra | .invFq12 _ ra | .cycsqrFq12 _ ra | .frobFq12 _ ra _ =>
    [fqCellsAt 12 ra]
  | .powFq _ ra rb => [fqAt ra, rawAt rb]
  | .powFr _ ra rb => [frAt ra, rawAt rb]
  | .powFq2 _ ra rb => [fqCellsAt 2 ra, rawAt rb]
  | .powFq6 _ ra rb => [fqCellsAt 6 ra, rawAt rb]
  | .powFq12 _ ra rb | .cycexpFq12 _ ra rb => [fqCellsAt 12 ra, rawAt rb]
  | .sopFq _ ra rb n => [(fqAt ra).times n, (fqAt rb).times n]
  | .sopFr _ ra rb n => [(frAt ra).times n, (frAt rb).times n]
  | .sopFq2 _ ra rb n => [(fqCellsAt 2 ra).times n, (fqCellsAt 2 rb).times n]
  | .sopFq6 _ ra rb n => [(fqCellsAt 6 ra).times n, (fqCellsAt 6 rb).times n]
  | .sopFq12 _ ra rb n => [(fqCellsAt 12 ra).times n, (fqCellsAt 12 rb).times n]
  | .redFq _ ra | .redFr _ ra => [rawAt ra]
  | .mul01Fq6 _ ra rb => [fqCellsAt 6 ra, fqCellsAt 4 rb]
  | .mul014Fq12 _ ra rb | .mul034Fq12 _ ra rb => [fqCellsAt 12 ra, fqCellsAt 6 rb]
  | .pisz ra | .pdbl _ ra | .p2a _ ra => [jacAt ra]
  | .aisz ra | .aneg _ ra | .a2p _ ra => [affAt ra]
  | .padd _ ra rb | .peq ra rb => [jacAt ra, jacAt rb]
  | .paddm _ ra rb => [jacAt ra, affAt rb]
  | .bnorm rd n => [(jacAt rd).times n]
  | .pmuln _ ra rb => [jacAt ra, rawAt rb]
  | .pmul _ ra rb => [jacAt ra, frAt rb]

/-- The destination operand of a command with the type of what it writes; `none` for the commands that write no cell
(10_state.md R22). -/
def instrResult : Instr → Option Source
  | .nop | .st _ | .legFq _ | .legFr _ | .pisz _ | .aisz _ | .peq _ _ => none
  | .iszFq _ | .iszFr _ | .iszFq2 _ | .iszFq6 _ | .iszFq12 _ => none
  | .isoneFq _ | .isoneFr _ | .isoneFq2 _ | .isoneFq6 _ | .isoneFq12 _ => none
  | .eqFq _ _ | .eqFr _ _ | .eqFq2 _ _ | .eqFq6 _ _ | .eqFq12 _ _ => none
  | .ld rd | .ldi rd _ | .charFq rd | .charFr rd | .cof rd => some (rawAt rd)
  | .mov rd _ n => some ((rawAt rd).times n)
  | .zeroFq rd | .oneFq rd | .addFq rd _ _ | .subFq rd _ _ | .mulFq rd _ _ | .negFq rd _ | .dblFq rd _ | .sqrFq rd _
  | .invFq rd _ | .divFq rd _ _ | .powFq rd _ _ | .sopFq rd _ _ _ | .sqrtFq rd _ | .redFq rd _ | .mulnrFq rd _ =>
    some (fqAt rd)
  | .zeroFr rd | .oneFr rd | .addFr rd _ _ | .subFr rd _ _ | .mulFr rd _ _ | .negFr rd _ | .dblFr rd _ | .sqrFr rd _
  | .invFr rd _ | .divFr rd _ _ | .powFr rd _ _ | .sopFr rd _ _ _ | .sqrtFr rd _ | .redFr rd _ => some (frAt rd)
  | .zeroFq2 rd | .oneFq2 rd | .addFq2 rd _ _ | .subFq2 rd _ _ | .mulFq2 rd _ _ | .negFq2 rd _ | .dblFq2 rd _
  | .sqrFq2 rd _ | .invFq2 rd _ | .divFq2 rd _ _ | .powFq2 rd _ _ | .sopFq2 rd _ _ _ | .frobFq2 rd _ _
  | .mulnrFq2 rd _ => some (fqCellsAt 2 rd)
  | .zeroFq6 rd | .oneFq6 rd | .addFq6 rd _ _ | .subFq6 rd _ _ | .mulFq6 rd _ _ | .negFq6 rd _ | .dblFq6 rd _
  | .sqrFq6 rd _ | .invFq6 rd _ | .divFq6 rd _ _ | .powFq6 rd _ _ | .sopFq6 rd _ _ _ | .frobFq6 rd _ _
  | .mulnrFq6 rd _ | .mul01Fq6 rd _ _ => some (fqCellsAt 6 rd)
  | .zeroFq12 rd | .oneFq12 rd | .addFq12 rd _ _ | .subFq12 rd _ _ | .mulFq12 rd _ _ | .negFq12 rd _ | .dblFq12 rd _
  | .sqrFq12 rd _ | .invFq12 rd _ | .divFq12 rd _ _ | .powFq12 rd _ _ | .sopFq12 rd _ _ _ | .frobFq12 rd _ _
  | .mul014Fq12 rd _ _ | .mul034Fq12 rd _ _ | .cycsqrFq12 rd _ | .cycexpFq12 rd _ _ => some (fqCellsAt 12 rd)
  | .pzero rd | .pdbl rd _ | .padd rd _ _ | .paddm rd _ _ | .a2p rd _ | .pmuln rd _ _ | .pmul rd _ _ =>
    some (jacAt rd)
  | .aneg rd _ | .p2a rd _ | .pgen rd | .pdec rd _ _ => some (affAt rd)
  | .bnorm rd n => some ((jacAt rd).times n)

/-- The cell `c` lies in the operand. -/
def Source.covers (o : Source) (c : Nat) : Prop := o.start ≤ c ∧ c < o.start + sourceWidth o

/-- The cell `c` is a cell of the command's destination. -/
def writesCell (i : Instr) (c : Nat) : Prop := ∃ d ∈ instrResult i, d.covers c

/-- The kind cell `j` of an operand is read as. -/
def Source.kindAt (o : Source) (j : Nat) : Option CellKind := o.kinds[j % o.kinds.length]?

/-- What a cell read as a kind may hold (10_state.md R12, R13). -/
def CellKind.Admits : CellKind → Nat → Prop
  | .raw, _ => True
  | .modulus m, v => v < m
  | .flag, v => v ≤ 1

/-! ### The violations of a command (60_exceptions.md R333, R334) -/

/-- The operand passes cell 255. -/
def Source.passesEnd (o : Source) : Prop := 256 < o.start + sourceWidth o

/-- Some cell of the operand holds no value. -/
def Source.unwritten (o : Source) (st : Store) : Prop := ∃ j < sourceWidth o, readCell st (o.start + j) = none

/-- Some valid cell of the operand is read as a flag and holds neither 0 nor 1. -/
def Source.badFlag (o : Source) (st : Store) : Prop :=
  ∃ j < sourceWidth o, ∃ v, o.kindAt j = some .flag ∧ readCell st (o.start + j) = some v ∧ 1 < v

/-- Some valid cell of the operand is read as an element of a prime field and is not below its modulus. -/
def Source.unreduced (o : Source) (st : Store) : Prop :=
  ∃ j < sourceWidth o, ∃ m v, o.kindAt j = some (.modulus m) ∧ readCell st (o.start + j) = some v ∧ m ≤ v

/-- The command violates the condition of a fault cause in a store. `ILLEGAL` is decided from the word alone: a command
whose operands no legal word carries. -/
def violates (i : Instr) (st : Store) : FaultCode → Prop
  | .illegal => i.wellFormed = false
  | .range => (∃ o ∈ instrSources i, o.passesEnd) ∨ ∃ d ∈ instrResult i, d.passesEnd
  | .unwritten => ∃ o ∈ instrSources i, o.unwritten st
  | .badFlag => ∃ o ∈ instrSources i, o.badFlag st
  | .unreduced => ∃ o ∈ instrSources i, o.unreduced st

/-- The fault a command takes: the violated cause of lowest code (R335). -/
def firstViolation (i : Instr) (st : Store) (c : FaultCode) : Prop :=
  violates i st c ∧ ∀ d, violates i st d → (faultNumber c).toNat ≤ (faultNumber d).toNat

/-- The cause of the fault a transaction of the word takes in a store with no fault latched: `ILLEGAL` for a word that
is no legal command, else the first violation of its command (30_encoding.md R55, R335). -/
def faultCause (w : CmdWord) (st : Store) (c : FaultCode) : Prop :=
  match decode w with
  | .error _ => c = .illegal
  | .ok i => firstViolation i st c

/-- What fault entry leaves (R336): `FLT <- 1`, `FCODE <- code`, `FCMD <-` the command word; no cell, not `T`, `N`, `L` nor
a reserved bit of `STATUS` changes, no output payload is sent, and the response carries the new `STATUS` and `FCMD`. The
model's own fields go on: the word's event is gone (log 3), no free value has been drawn (log 2). -/
structure FaultEntered (c : FaultCode) (w : CmdWord) (rest : List HostEvent) (s t : State) : Prop where
  flt : t.flt = true
  fcode : t.fcode = faultNumber c
  fcmd : t.fcmd = w
  cells : t.cells = s.cells
  flagT : t.flagT = s.flagT
  flagN : t.flagN = s.flagN
  flagL : t.flagL = s.flagL
  reserved : t.status &&& 0xF0E0 = s.status &&& 0xF0E0
  response : t.response = some ⟨t.status, w, []⟩
  inbox : t.inbox = rest
  drawn : t.drawn = s.drawn

/-- The command passes every check. -/
def passesChecks (i : Instr) (st : Store) : Prop := ∀ c, ¬ violates i st c

/-! ### Which command writes which flag (10_state.md R16) -/

/-- The predicate commands, which write `T`. -/
def writesT : Instr → Bool
  | .iszFq _ | .iszFr _ | .iszFq2 _ | .iszFq6 _ | .iszFq12 _ => true
  | .isoneFq _ | .isoneFr _ | .isoneFq2 _ | .isoneFq6 _ | .isoneFq12 _ => true
  | .eqFq _ _ | .eqFr _ _ | .eqFq2 _ _ | .eqFq6 _ _ | .eqFq12 _ _ => true
  | .pisz _ | .aisz _ | .peq _ _ => true
  | _ => false

/-- The `None`-capable commands, which write `N`. -/
def writesN : Instr → Bool
  | .invFq _ _ | .invFr _ _ | .invFq2 _ _ | .invFq6 _ _ | .invFq12 _ _ => true
  | .divFq _ _ _ | .divFr _ _ _ | .divFq2 _ _ _ | .divFq6 _ _ _ | .divFq12 _ _ _ => true
  | .sqrtFq _ _ | .sqrtFr _ _ | .pdec _ _ _ => true
  | _ => false

/-- The Legendre commands, which write `L`. -/
def writesL : Instr → Bool
  | .legFq _ | .legFr _ => true
  | _ => false

/-- The one command that takes an input payload (20_memory.md R32). -/
def takesPayload : Instr → Bool
  | .ld _ => true
  | _ => false

/-- The one command that sends an output payload (20_memory.md R32). -/
def sendsPayload : Instr → Bool
  | .st _ => true
  | _ => false

/-- The commands that write free values outside their domain (43_frobenius_sparse_cyclotomic.md R214). -/
def drawsFree : Instr → Bool
  | .cycsqrFq12 _ _ | .cycexpFq12 _ _ _ => true
  | _ => false

/-! ### The invariant -/

/-- What every state a run reaches satisfies. -/
structure State.Inv (s : State) : Prop where
  /-- The store is in canonical form: indices below 256, strictly rising (20_memory.md R30). -/
  store : storeWf s.cells
  /-- A cell holds an integer below `2^W` (10_state.md R11). -/
  fits : ∀ i v, readCell s.cells i = some v → v < 2 ^ Config.params.width
  /-- `STATUS` bits 7:5 and 15:12 are 0 (10_state.md R16). -/
  reserved : s.status &&& 0xF0E0#16 = 0
  /-- `L = 3` is never written (R16). -/
  legendre : s.flagL ≠ 3
  /-- `FCODE` values 6 to 15 are never written (60_exceptions.md R333). -/
  code : s.fcode.toNat ≤ 5
  /-- `FCODE` is 0 exactly when `FLT = 0` (R16). -/
  latch : s.flt = true ↔ s.fcode ≠ 0
  /-- `FCMD` is 0 while `FLT = 0` (10_state.md R17). -/
  clear : s.flt = false → s.fcmd = 0

end Sys2Proof.Machine
end

