-- ==== Sys2Proof/Safety/Claims.lean ====
section
/-! DEFINITION. The words the statements are written in: operands as lists of cells (10_state.md R12), the shapes of a
result statement, and the tower evaluated in a ring (42_extension_tower.md R140). Nothing here is used by the machine. -/

namespace Sys2Proof.Machine

/-! ### Operands as lists of cells -/

/-- A run of cells from `i` on lies in the store and holds the integers in order. -/
def holds (s : State) (i : CellIdx) (vs : List Nat) : Prop :=
  i.toNat + vs.length ≤ 256 ∧ ∀ j v, vs[j]? = some v → readCell s.cells (i.toNat + j) = some v

/-- A destination of `n` cells from `i` on lies in the store. -/
def fits (i : CellIdx) (n : Nat) : Prop := i.toNat + n ≤ 256

/-- A layout: how many cells a value takes, which integers they hold, and which values the reading checks admit. -/
structure Form (α : Type) where
  width : Nat
  cells : α → List Nat
  valid : α → Prop

/-- A raw integer. -/
def rawForm : Form Nat := ⟨1, fun v => [v], fun _ => True⟩

/-- An element of the prime field of modulus `m`. -/
def primeForm (m : Nat) : Form Nat := ⟨1, fun v => [v], fun v => v < m⟩

/-- An `Fq2` element. -/
def fq2Form : Form Fq2 := ⟨2, fun a => [a.c0, a.c1], Fq2.Reduced Config.params.q⟩

/-- An `Fq6` element. -/
def fq6Form : Form Fq6 :=
  ⟨6, fun a => [a.c0.c0, a.c0.c1, a.c1.c0, a.c1.c1, a.c2.c0, a.c2.c1], Fq6.Reduced Config.params.q⟩

/-- An `Fq12` element. -/
def fq12Form : Form Fq12 :=
  ⟨12, fun a => [a.c0.c0.c0, a.c0.c0.c1, a.c0.c1.c0, a.c0.c1.c1, a.c0.c2.c0, a.c0.c2.c1,
    a.c1.c0.c0, a.c1.c0.c1, a.c1.c1.c0, a.c1.c1.c1, a.c1.c2.c0, a.c1.c2.c1], Fq12.Reduced Config.params.q⟩

/-- An affine point. -/
def affForm : Form Affine := ⟨3, fun P => [P.x, P.y, P.inf], Affine.Reduced Config.params.q⟩

/-- A Jacobian point. -/
def jacForm : Form Jacobian := ⟨3, fun P => [P.x, P.y, P.z], Jacobian.Reduced Config.params.q⟩

/-- Two `Fq2` elements, packed (43_frobenius_sparse_cyclotomic.md R208). -/
def pairForm : Form (Fq2 × Fq2) :=
  ⟨4, fun s => [s.1.c0, s.1.c1, s.2.c0, s.2.c1],
    fun s => s.1.Reduced Config.params.q ∧ s.2.Reduced Config.params.q⟩

/-- Three `Fq2` elements, packed (43_frobenius_sparse_cyclotomic.md R209). -/
def tripleForm : Form (Fq2 × Fq2 × Fq2) :=
  ⟨6, fun s => [s.1.c0, s.1.c1, s.2.1.c0, s.2.1.c1, s.2.2.c0, s.2.2.c1],
    fun s => s.1.Reduced Config.params.q ∧ s.2.1.Reduced Config.params.q ∧ s.2.2.Reduced Config.params.q⟩

/-! ### Shapes of a result statement

Each says, with no fault latched, for every state whose source cells hold valid operands and every destination that
lies in the store, wherever the operands overlap: the command answers exactly this next state. -/

/-- The command writes the constant `b`. -/
def Constant {β : Type} (B : Form β) (mk : CellIdx → Instr) (b : β) : Prop :=
  ∀ (s : State) (rd : CellIdx), s.flt = false → fits rd B.width →
    exec (mk rd) s = .next (s.write rd.toNat (B.cells b))

/-- The command writes a valid `b` with `R a b` for its operand `a`, and changes nothing else. -/
def Unary {α β : Type} (A : Form α) (B : Form β) (mk : CellIdx → CellIdx → Instr) (R : α → β → Prop) : Prop :=
  ∀ (s : State) (rd ra : CellIdx) (a : α), s.flt = false → A.valid a → holds s ra (A.cells a) → fits rd B.width →
    ∃ b, B.valid b ∧ R a b ∧ exec (mk rd ra) s = .next (s.write rd.toNat (B.cells b))

/-- The command writes a valid `c` with `R a b c` for its operands `a` and `b`, and changes nothing else. -/
def Binary {α β γ : Type} (A : Form α) (B : Form β) (C : Form γ) (mk : CellIdx → CellIdx → CellIdx → Instr)
    (R : α → β → γ → Prop) : Prop :=
  ∀ (s : State) (rd ra rb : CellIdx) (a : α) (b : β), s.flt = false → A.valid a → B.valid b →
    holds s ra (A.cells a) → holds s rb (B.cells b) → fits rd C.width →
    ∃ c, C.valid c ∧ R a b c ∧ exec (mk rd ra rb) s = .next (s.write rd.toNat (C.cells c))

/-- What a `None`-capable command with the answer `o` leaves: `None` unwrites the destination and sets `N`, a value is
written and clears `N` (60_exceptions.md R331). -/
def optionState {β : Type} (B : Form β) (s : State) (rd : CellIdx) : Option β → State
  | none => (s.unwrite rd.toNat B.width).setN true
  | some b => (s.setN false).write rd.toNat (B.cells b)

/-- The command ends with an answer `o` that is valid if it is a value, with `R a o` for its operand `a`. -/
def PartialUnary {α β : Type} (A : Form α) (B : Form β) (mk : CellIdx → CellIdx → Instr)
    (R : α → Option β → Prop) : Prop :=
  ∀ (s : State) (rd ra : CellIdx) (a : α), s.flt = false → A.valid a → holds s ra (A.cells a) → fits rd B.width →
    ∃ o, (∀ b ∈ o, B.valid b) ∧ R a o ∧ exec (mk rd ra) s = .next (optionState B s rd o)

/-- The command ends with an answer `o` that is valid if it is a value, with `R a b o` for its operands. -/
def PartialBinary {α β γ : Type} (A : Form α) (B : Form β) (C : Form γ) (mk : CellIdx → CellIdx → CellIdx → Instr)
    (R : α → β → Option γ → Prop) : Prop :=
  ∀ (s : State) (rd ra rb : CellIdx) (a : α) (b : β), s.flt = false → A.valid a → B.valid b →
    holds s ra (A.cells a) → holds s rb (B.cells b) → fits rd C.width →
    ∃ o, (∀ c ∈ o, C.valid c) ∧ R a b o ∧ exec (mk rd ra rb) s = .next (optionState C s rd o)

/-- The predicate command sets `T` exactly when `P` holds of its operand, and changes nothing else. -/
def Test {α : Type} (A : Form α) (mk : CellIdx → Instr) (P : α → Prop) : Prop :=
  ∀ (s : State) (ra : CellIdx) (a : α), s.flt = false → A.valid a → holds s ra (A.cells a) →
    ∃ b : Bool, (b = true ↔ P a) ∧ exec (mk ra) s = .next (s.setT b)

/-- The predicate command sets `T` exactly when `P` holds of its operands, and changes nothing else. -/
def Compare {α : Type} (A : Form α) (mk : CellIdx → CellIdx → Instr) (P : α → α → Prop) : Prop :=
  ∀ (s : State) (ra rb : CellIdx) (a b : α), s.flt = false → A.valid a → A.valid b →
    holds s ra (A.cells a) → holds s rb (A.cells b) →
    ∃ t : Bool, (t = true ↔ P a b) ∧ exec (mk ra rb) s = .next (s.setT t)

/-- The command writes a valid `c` with `R as bs c` for its two vectors of `n` elements, and changes nothing else. -/
def Vectors {α : Type} (A : Form α) (mk : CellIdx → CellIdx → CellIdx → Imm → Instr)
    (R : List α → List α → α → Prop) : Prop :=
  ∀ (s : State) (rd ra rb : CellIdx) (n : Imm) (as bs : List α), s.flt = false →
    as.length = n.toNat → bs.length = n.toNat → (∀ a ∈ as, A.valid a) → (∀ b ∈ bs, A.valid b) →
    holds s ra (as.flatMap A.cells) → holds s rb (bs.flatMap A.cells) → fits rd A.width →
    ∃ c, A.valid c ∧ R as bs c ∧ exec (mk rd ra rb n) s = .next (s.write rd.toNat (A.cells c))

/-! ### The tower in a ring (42_extension_tower.md R140) -/

/-- `c0 + c1·u`. -/
def evalFq2 {R : Type} [CommRing R] (u : R) (a : Fq2) : R := (a.c0 : R) + a.c1 * u

/-- `c0 + c1·v + c2·v²`. -/
def evalFq6 {R : Type} [CommRing R] (u v : R) (a : Fq6) : R :=
  evalFq2 u a.c0 + evalFq2 u a.c1 * v + evalFq2 u a.c2 * v ^ 2

/-- `c0 + c1·w`. -/
def evalFq12 {R : Type} [CommRing R] (u v w : R) (a : Fq12) : R := evalFq6 u v a.c0 + evalFq6 u v a.c1 * w

/-- `u`, `v`, `w` are roots of the three defining polynomials in a commutative ring where `q = 0`. -/
structure TowerRoots (R : Type) [CommRing R] (u v w : R) : Prop where
  char : (Config.params.q : R) = 0
  u_sq : u ^ 2 = (Config.params.nonres2 : R)
  v_cube : v ^ 3 = evalFq2 u Config.params.nonres6
  w_sq : w ^ 2 = evalFq6 u v Config.params.nonres12

/-- A statement about the tower holds in every such ring. Where the tower is a field (R7 WF4) it is one of them, and a
reduced element is known by its value there. -/
def InTower (P : (R : Type) → [CommRing R] → R → R → R → Prop) : Prop :=
  ∀ (R : Type) [CommRing R] (u v w : R), TowerRoots R u v w → P R u v w

/-- The domain `C` of the cyclotomic commands, `x^r = 1` (43_frobenius_sparse_cyclotomic.md R214). -/
def InCyclotomic (a : Fq12) : Prop := InTower fun _ _ u v w => evalFq12 u v w a ^ Config.params.r = 1

/-- The element `g = GENERATOR^T` of a prime field (47_sqrt.md R300). -/
def rootGenerator (f : PrimeParams) : ZMod f.modulus := (f.generator : ZMod f.modulus) ^ f.t

end Sys2Proof.Machine
end

