-- ==== Sys2Proof/Safety/Points.lean ====
section
/-! DEFINITION. The rules of the point commands as relations over the field `ZMod q`, with no function of the machine in
them (44_curve_group.md R235 to R241, 45_batch_normalization.md R271, 46_scalar_mul.md R283 to R287), and which points
lie on the curve and in the subgroup (44_curve_group.md R230). Nothing here is used by the machine. -/

namespace Sys2Proof.Machine

/-- The field of the coordinates. -/
abbrev Coord := ZMod Config.params.q

/-! ### The group law (R235 to R238) -/

/-- `c` is what R235 writes for `P`. -/
def DoubleRule (P c : Jacobian) : Prop :=
  c.Reduced Config.params.q ∧ (P.z = 0 → c = P) ∧
  (P.z ≠ 0 →
    let X : Coord := P.x
    let Y : Coord := P.y
    let Z : Coord := P.z
    let S := 4 * X * Y ^ 2
    let M := 3 * X ^ 2 + (Config.params.coeffA : Coord) * Z ^ 4
    (c.x : Coord) = M ^ 2 - 2 * S ∧ (c.y : Coord) = M * (S - c.x) - 8 * Y ^ 4 ∧ (c.z : Coord) = 2 * Y * Z)

/-- `c` is what R236 writes for `P` and `Q`. -/
def AddRule (P Q c : Jacobian) : Prop :=
  c.Reduced Config.params.q ∧ (P.z = 0 → c = Q) ∧ (P.z ≠ 0 → Q.z = 0 → c = P) ∧
  (P.z ≠ 0 → Q.z ≠ 0 →
    let Z1 : Coord := P.z
    let Z2 : Coord := Q.z
    let U1 := (P.x : Coord) * Z2 ^ 2
    let U2 := (Q.x : Coord) * Z1 ^ 2
    let S1 := (P.y : Coord) * Z2 ^ 3
    let S2 := (Q.y : Coord) * Z1 ^ 3
    let H := U2 - U1
    let I := (2 * H) ^ 2
    let J := H * I
    let r := 2 * (S2 - S1)
    let V := U1 * I
    (U1 = U2 → S1 = S2 → DoubleRule P c) ∧
    (¬(U1 = U2 ∧ S1 = S2) → (c.x : Coord) = r ^ 2 - J - 2 * V ∧ (c.y : Coord) = r * (V - c.x) - 2 * S1 * J ∧
      (c.z : Coord) = ((Z1 + Z2) ^ 2 - Z1 ^ 2 - Z2 ^ 2) * H))

/-- `c` is what R237 writes for `P` and the affine `Q`. -/
def MixedRule (P : Jacobian) (Q : Affine) (c : Jacobian) : Prop :=
  c.Reduced Config.params.q ∧ (Q.inf = 1 → c = P) ∧ (Q.inf ≠ 1 → P.z = 0 → c = ⟨Q.x, Q.y, 1⟩) ∧
  (Q.inf ≠ 1 → P.z ≠ 0 →
    let X1 : Coord := P.x
    let Y1 : Coord := P.y
    let Z1 : Coord := P.z
    let U2 := (Q.x : Coord) * Z1 ^ 2
    let S2 := (Q.y : Coord) * Z1 ^ 3
    let H := U2 - X1
    let I := 4 * H ^ 2
    let J := H * I
    let r := 2 * (S2 - Y1)
    let V := X1 * I
    (U2 = X1 → S2 = Y1 → DoubleRule P c) ∧
    (¬(U2 = X1 ∧ S2 = Y1) → (c.x : Coord) = r ^ 2 - J - 2 * V ∧ (c.y : Coord) = r * (V - c.x) - 2 * Y1 * J ∧
      (c.z : Coord) = (Z1 + H) ^ 2 - Z1 ^ 2 - H ^ 2))

/-- `c` is what R238 writes for `P`. -/
def NegRule (P c : Affine) : Prop :=
  c.Reduced Config.params.q ∧ (P.inf = 1 → c = ⟨0, 1, 1⟩) ∧
  (P.inf ≠ 1 → c.x = P.x ∧ (c.y : Coord) = -P.y ∧ c.inf = 0)

/-- `c` is what R241 writes for `P`. -/
def AffineRule (P : Jacobian) (c : Affine) : Prop :=
  c.Reduced Config.params.q ∧ (P.z = 0 → c = ⟨0, 1, 1⟩) ∧
  (P.z ≠ 0 → (c.x : Coord) * (P.z : Coord) ^ 2 = P.x ∧ (c.y : Coord) * (P.z : Coord) ^ 3 = P.y ∧ c.inf = 0)

/-- `c` is what R271 leaves of `P`. -/
def NormalRule (P c : Jacobian) : Prop :=
  c.Reduced Config.params.q ∧ (P.z = 0 ∨ P.z = 1 → c = P) ∧
  (P.z ≠ 0 → P.z ≠ 1 →
    (c.x : Coord) * (P.z : Coord) ^ 2 = P.x ∧ (c.y : Coord) * (P.z : Coord) ^ 3 = P.y ∧ c.z = 1)

/-! ### Scalar multiplication (R283 to R287) -/

/-- The loop of R287 after the leading bits of the multiplier that make up the number `e`. -/
inductive NaiveRule (P : Jacobian) : Nat → Jacobian → Prop
  | zero : NaiveRule P 0 ⟨0, 1, 0⟩
  | even {e : Nat} {R c : Jacobian} (he : 0 < e) (h : NaiveRule P e R) (hd : DoubleRule R c) : NaiveRule P (2 * e) c
  | odd {e : Nat} {R d c : Jacobian} (h : NaiveRule P e R) (hd : DoubleRule R d) (ha : AddRule d P c) :
      NaiveRule P (2 * e + 1) c

/-- The number a list of digits stands for, least significant first. -/
def digitsValue (ds : List Int) : Int := ds.foldr (fun d acc => d + 2 * acc) 0

/-- The digits are the windowed non-adjacent form of `e` for `WINDOW = 4` (R284): they stand for `e`; a digit that is not
0 is odd, lies in `-15 .. 15`, and the next four digits are 0 or absent; the last digit is not 0. -/
structure IsWnaf (e : Nat) (ds : List Int) : Prop where
  value : digitsValue ds = e
  digit : ∀ (i : Nat) (d : Int), ds[i]? = some d → d ≠ 0 → d % 2 = 1 ∧ -15 ≤ d ∧ d ≤ 15
  sparse : ∀ (i j : Nat) (d d' : Int), ds[i]? = some d → d ≠ 0 → i < j → j ≤ i + 4 → ds[j]? = some d' → d' = 0
  last : ∀ d, ds.getLast? = some d → d ≠ 0

/-- `T1` of R283: `P`, then seven times the mixed sum with the affine double of `P`. -/
def OddTable (P : Jacobian) (T : List Jacobian) : Prop :=
  T.length = 8 ∧ T[0]? = some P ∧ ∃ D A, DoubleRule P D ∧ AffineRule D A ∧
    ∀ i B C, T[i]? = some B → T[i + 1]? = some C → MixedRule B A C

/-- `ENDO` of R282. -/
def endoTriple (P : Jacobian) : Jacobian := ⟨Config.params.endoBeta * P.x % Config.params.q, P.y, P.z⟩

/-- One table of the combined loop at position `i` (R285). -/
def DigitRule (ds : List Int) (A : List Affine) (i : Nat) (acc c : Jacobian) : Prop :=
  (∀ d, ds[i]? = some d → d ≠ 0 → ∃ E S, A[d.natAbs / 2]? = some E ∧ (0 < d → S = E) ∧ (d < 0 → NegRule E S) ∧
    MixedRule acc S c) ∧
  (ds[i]? = none ∨ ds[i]? = some 0 → c = acc)

/-- The combined loop from position `i − 1` down to 0 (R285): table 1, table 2, and a doubling but for position 0. -/
inductive LoopRule (n1 n2 : List Int) (A1 A2 : List Affine) : Nat → Jacobian → Jacobian → Prop
  | empty {acc : Jacobian} : LoopRule n1 n2 A1 A2 0 acc acc
  | last {acc a c : Jacobian} (h1 : DigitRule n1 A1 0 acc a) (h2 : DigitRule n2 A2 0 a c) : LoopRule n1 n2 A1 A2 1 acc c
  | next {i : Nat} {acc a b d c : Jacobian} (h1 : DigitRule n1 A1 (i + 1) acc a) (h2 : DigitRule n2 A2 (i + 1) a b)
      (hd : DoubleRule b d) (h : LoopRule n1 n2 A1 A2 (i + 1) d c) : LoopRule n1 n2 A1 A2 (i + 2) acc c

/-- The digits of a half-scalar under its sign flag (R286). -/
def withSign (negative : Bool) (ds : List Int) : List Int := if negative then ds.map Neg.neg else ds

/-- `c` is what R286 writes for `P` and `k`. -/
def GlvRule (P : Jacobian) (k : Nat) (c : Jacobian) : Prop :=
  ∃ (T : List Jacobian) (A1 A2 : List Affine) (n1 n2 : List Int),
    OddTable P T ∧ List.Forall₂ AffineRule T A1 ∧ List.Forall₂ AffineRule (T.map endoTriple) A2 ∧
    IsWnaf (Config.params.glvDecompose k).k1 n1 ∧ IsWnaf (Config.params.glvDecompose k).k2 n2 ∧
    LoopRule (withSign (Config.params.glvDecompose k).s1 n1) (withSign (Config.params.glvDecompose k).s2 n2) A1 A2
      (max n1.length n2.length) ⟨0, 1, 0⟩ c

/-! ### Points (R230) -/

/-- The curve equation. -/
def OnCurve : Point → Prop
  | none => True
  | some (x, y) => x < Config.params.q ∧ y < Config.params.q ∧
    (y : Coord) ^ 2 = (x : Coord) ^ 3 + Config.params.coeffA * x + Config.params.coeffB

/-- The triple stands for the point, `pt(X, Y, Z)`: `O` if `Z = 0`, else `(X/Z², Y/Z³)`. -/
def StandsFor (P : Jacobian) : Point → Prop
  | none => P.z = 0
  | some (x, y) => P.z ≠ 0 ∧ x < Config.params.q ∧ y < Config.params.q ∧
    (x : Coord) * (P.z : Coord) ^ 2 = P.x ∧ (y : Coord) * (P.z : Coord) ^ 3 = P.y

/-- The affine triple stands for the point: `O` if `inf = 1`, else `(x, y)`. -/
def AffineStandsFor (P : Affine) : Point → Prop
  | none => P.inf = 1
  | some (x, y) => P.inf ≠ 1 ∧ P.x = x ∧ P.y = y

/-- The point lies in the order-`r` subgroup, that of the generator (00_scope.md R7 WF6). -/
def InSubgroup (P : Point) : Prop := ∃ k, P = pointMul Config.params Config.params.generator k

end Sys2Proof.Machine
end

