-- ==== Sys2Proof/Certificates/Slice0/Obligations.lean ====
section
/-! DEFINITION. The statements for the provers, each `def Obligations.<Name> : Prop`. They hold for the record
`Config.params`, of which nothing but well-formedness is known (log 1), and in every state, reachable or not, unless they
say otherwise. A result statement concludes that the command answers exactly the next state it gives, so it is also the
statement of where the command completes and of what it leaves unchanged. -/

open Sys2Proof Sys2Proof.Machine

/-! ### The command word (30_encoding.md) -/

/-- Decoding the word of a well-formed command gives that command back, for every operand (R50, R52, R53, R54). -/
def Obligations.DecodeEncode : Prop := ∀ i : Instr, i.wellFormed = true → decode (encode i) = .ok i

/-- A word that decodes is the one word of its command, and its command is well formed (R50, R55). -/
def Obligations.EncodeDecode : Prop :=
  ∀ (w : CmdWord) (i : Instr), decode w = .ok i → i.wellFormed = true ∧ encode i = w

/-- A word is legal exactly when it matches the mask and the pattern of some row of the opcode table (R54, R55). -/
def Obligations.LegalIffMaskMatch : Prop :=
  ∀ w : CmdWord, (∃ i, decode w = .ok i) ↔ ∃ row ∈ maskRows, w &&& row.1 = row.2

/-- Words the spec writes out decode to the commands it names (R103, R113, R320, R323, R324, R203, R270, R286, R253), and
words it calls illegal do not decode (R55). -/
def Obligations.DecodesWorkedWords : Prop :=
  decode 0x0000000000000F00 = .ok .nop ∧
  decode 0x0006000006000F03 = .ok (.mov 0 6 6) ∧
  decode 0x0007000000010F04 = .ok (.ldi 1 7) ∧
  decode 0x0000000000010111 = .ok (.oneFr 1) ∧
  decode 0x0000000001020021 = .ok (.sqrtFq 2 1) ∧
  decode 0x000300000C180428 = .ok (.frobFq12 24 12 3) ∧
  decode 0x00040000001E054A = .ok (.bnorm 30 4) ∧
  decode 0x000000140315054F = .ok (.pmul 21 3 20) ∧
  decode 0x000100000104054D = .ok (.pdec 4 1 1) ∧
  decode 0x000200000104054D = .error .signSelector ∧
  decode 0x0000000000001F00 = .error .reservedBit ∧
  decode 0x0000000000010F00 = .error .unusedField ∧
  decode 0x0000000000000205 = .error .unknownPair

/-! ### Transactions (20_memory.md) -/

/-- A transaction of a legal word runs `exec` of the decoded command on the state in which the word and the payload have
arrived, and a completed command is answered with `STATUS`, `FCMD` and what was sent, the port then being idle
(R32, R40). -/
def Obligations.StepRunsDecodedCommand : Prop :=
  ∀ (s : State) (w : CmdWord) (payload : List Limb) (rest : List HostEvent) (i : Instr),
    s.inbox = .command w payload :: rest → s.flt = false → decode w = .ok i →
    payload.length = (if takesPayload i then Config.params.limbs else 0) →
    ∀ t, exec i { s with inbox := rest, word := w, payload := payload, portOut := [], response := none } = .next t →
      step s = .next { t with word := 0, payload := [], portOut := [],
                              response := some ⟨t.status, t.fcmd, t.portOut⟩ }

/-- Every transaction in the host's discipline is answered: the block has a next state, in which a response stands and
the host's next event is the one after it (R46; 70_reset_and_hazards.md R371: every command terminates). -/
def Obligations.EveryTransactionAnswered : Prop :=
  ∀ (s : State) (w : CmdWord) (payload : List Limb) (rest : List HostEvent),
    s.inbox = .command w payload :: rest → payloadLegal Config.params.limbs w payload = true →
    ∃ t out, step s = .next t ∧ t.inbox = rest ∧ t.response = some ⟨t.status, t.fcmd, out⟩ ∧ t.word = 0 ∧
      t.payload = [] ∧ t.portOut = []

/-- A payload the host may not send is refused, and it is the only refusal of `step`. The refusal is the model's form of
the unspecified behaviour (R33; log 4). -/
def Obligations.BadPayloadRefused : Prop :=
  (∀ (s : State) (w : CmdWord) (payload : List Limb) (rest : List HostEvent), s.inbox = .command w payload :: rest →
    payloadLegal Config.params.limbs w payload = false → step s = .refused .badPayload) ∧
  ∀ (s : State) (r : Refusal), step s = .refused r → r = .badPayload ∧ ∃ w payload rest,
    s.inbox = .command w payload :: rest ∧ payloadLegal Config.params.limbs w payload = false

/-! ### Reset (70_reset_and_hazards.md, 10_state.md) -/

/-- Reset unwrites every cell, clears `STATUS` with all its fields and `FCMD`, and leaves no transaction and no response
(R360). -/
def Obligations.ResetEvent : Prop :=
  ∀ (s : State) (rest : List HostEvent), s.inbox = .reset :: rest →
    ∃ t, step s = .next t ∧ (∀ c, readCell t.cells c = none) ∧ t.status = 0 ∧ t.flt = false ∧ t.fcode = 0 ∧
      t.flagT = false ∧ t.flagN = false ∧ t.flagL = 0 ∧ t.fcmd = 0 ∧ t.inbox = rest ∧ t.word = 0 ∧ t.payload = [] ∧
      t.portOut = [] ∧ t.response = none

/-- After reset every cell is invalid, `STATUS = 0` and `FCMD = 0` (R21). -/
def Obligations.ResetState : Prop :=
  (∀ c, readCell State.reset.cells c = none) ∧ State.reset.status = 0 ∧ State.reset.flagT = false ∧
    State.reset.flagN = false ∧ State.reset.flagL = 0 ∧ State.reset.flt = false ∧ State.reset.fcode = 0 ∧
    State.reset.fcmd = 0

/-- The state after reset satisfies the invariant. -/
def Obligations.ResetMeetsInv : Prop := State.reset.Inv

/-- Every step from a state with the invariant leads to one with the invariant: the store in canonical form with cells
below `2^W`, the reserved bits of `STATUS` 0, `L` not 3, `FCODE` at most 5 and 0 exactly when `FLT = 0`, `FCMD = 0` while
`FLT = 0` (10_state.md R11, R16, R17). -/
def Obligations.StepKeepsInv : Prop := ∀ s t : State, s.Inv → step s = .next t → t.Inv

/-! ### Faults (60_exceptions.md) -/

/-- Fault entry (R336), with the cause of R333 and R335: a transaction for whose word there is a cause sets `FLT`, puts the
code of that cause in `FCODE` (1 for a word that is no legal command, else the lowest violated one) and its word in
`FCMD`, and changes nothing else: no cell, not `T`, `N`, `L` nor a reserved bit of `STATUS`, and it sends no output
payload; its response carries the new `STATUS` and `FCMD`. A transaction that ends with `FLT = 1` had a cause and has done
just that. The clauses on the host's events and on the count of free values are the model's own (log 3, log 2). -/
def Obligations.FaultEntryPrecise : Prop :=
  (∀ (s : State) (w : CmdWord) (payload : List Limb) (rest : List HostEvent) (c : FaultCode),
    s.inbox = .command w payload :: rest → payloadLegal Config.params.limbs w payload = true → s.flt = false →
    faultCause w s.cells c → ∃ t, step s = .next t ∧ FaultEntered c w rest s t) ∧
  ∀ (s t : State) (w : CmdWord) (payload : List Limb) (rest : List HostEvent),
    s.inbox = .command w payload :: rest → s.flt = false → step s = .next t → t.flt = true →
    ∃ c, faultCause w s.cells c ∧ FaultEntered c w rest s t

/-- Refusal (R337): while `FLT = 1` a transaction of any word, legal or not, leaves every cell, `STATUS` and `FCMD` as they
are, discards its payload and is answered with them and no output payload. -/
def Obligations.RefusedWhileFaulted : Prop :=
  ∀ (s : State) (w : CmdWord) (payload : List Limb) (rest : List HostEvent),
    s.inbox = .command w payload :: rest → payloadLegal Config.params.limbs w payload = true → s.flt = true →
    step s = .next { s with inbox := rest, word := 0, payload := [], portOut := [],
                            response := some ⟨s.status, s.fcmd, []⟩ }

/-- No return (R338): from a state with `FLT = 1`, however many events the host raises, as long as none is reset, no cell,
no bit of `STATUS` and no bit of `FCMD` changes; a step that clears `FLT` is a reset, and it unwrites every cell. -/
def Obligations.FaultLatchHolds : Prop :=
  (∀ (k : Nat) (s t : State), s.flt = true → (∀ e ∈ s.inbox.take k, e ≠ .reset) →
    Host.Core.run Sys2Proof.core k s = .next t → t.cells = s.cells ∧ t.status = s.status ∧ t.fcmd = s.fcmd) ∧
  ∀ s t : State, s.flt = true → step s = .next t → t.flt = false →
    s.inbox.head? = some .reset ∧ ∀ c, readCell t.cells c = none

/-- `FCMD` (10_state.md R17): it is 0 after reset and while `FLT = 0`; a transaction that faults leaves in it the command
word that caused the fault; it changes only so or when the block is reset; every response carries it. -/
def Obligations.FcmdHoldsFaultingWord : Prop :=
  State.reset.fcmd = 0 ∧
  ∀ s t : State, s.Inv → step s = .next t →
    (t.flt = false → t.fcmd = 0) ∧
    (∀ w payload, s.inbox.head? = some (.command w payload) → s.flt = false → t.flt = true → t.fcmd = w) ∧
    (t.fcmd ≠ s.fcmd → s.inbox.head? = some .reset ∨
      ∃ w payload, s.inbox.head? = some (.command w payload) ∧ s.flt = false ∧ t.flt = true ∧ t.fcmd = w) ∧
    ∀ w payload, s.inbox.head? = some (.command w payload) → ∃ out, t.response = some ⟨t.status, t.fcmd, out⟩

/-- A word that is no legal command faults `ILLEGAL` before any cell is looked at (R333, R335). -/
def Obligations.IllegalWordFaults : Prop :=
  ∀ (s : State) (w : CmdWord) (rest : List HostEvent) (e : DecodeError), s.inbox = .command w [] :: rest →
    s.flt = false → decode w = .error e →
    ∃ t, step s = .next t ∧ t.flt = true ∧ t.fcode = 1 ∧ t.fcmd = w ∧ t.cells = s.cells

/-- The checks and their priority (R334, R335): with no fault latched, a command that violates some check takes the fault of
the violated cause of lowest code, over all its operands, and makes no other write, so it does not set `N`; a command that
faults has violated the check of the cause it reports. -/
def Obligations.FaultPriority : Prop :=
  (∀ (i : Instr) (s : State) (c : FaultCode), s.flt = false → firstViolation i s.cells c →
    exec i s = .next (takeFault c s)) ∧
  ∀ (i : Instr) (s t : State), s.flt = false → exec i s = .next t → t.flt = true →
    ∃ c, firstViolation i s.cells c ∧ t = takeFault c s

/-! ### What every command does and does not touch (10_state.md R12, R16, R22) -/

/-- Every command that passes its checks completes, with its payload if it is `ld`: it answers a next state with no fault
(R330, R371). The conditions are those of R333 to R335, for all 115 commands of `Instr`. -/
def Obligations.EveryCommandCompletes : Prop :=
  ∀ (i : Instr) (s : State), s.flt = false → passesChecks i s.cells →
    (takesPayload i = true → s.payload.length = Config.params.limbs) → ∃ t, exec i s = .next t ∧ t.flt = false

/-- No command, completing, faulting or refused, changes a cell outside its destination (R22). -/
def Obligations.CellFrame : Prop :=
  ∀ (i : Instr) (s t : State), exec i s = .next t → ∀ c, ¬ writesCell i c → readCell t.cells c = readCell s.cells c

/-- A command writes only the flags R16 names for it. A fault writes `FLT`, `FCODE` and `FCMD` alone, no other command
writes these, and nothing writes a reserved bit. -/
def Obligations.FlagFrame : Prop :=
  ∀ (i : Instr) (s t : State), exec i s = .next t →
    (writesT i = false → t.flagT = s.flagT) ∧ (writesN i = false → t.flagN = s.flagN) ∧
    (writesL i = false → t.flagL = s.flagL) ∧ t.status &&& 0xF0E0 = s.status &&& 0xF0E0 ∧
    (t.flt = s.flt → t.fcode = s.fcode ∧ t.fcmd = s.fcmd) ∧
    (t.flt ≠ s.flt → t.flt = true ∧ t.fcmd = s.word ∧ t.flagT = s.flagT ∧ t.flagN = s.flagN ∧ t.flagL = s.flagL)

/-- No command changes what the host sends or has been answered, only `st` sends, and only the cyclotomic commands draw
a free value. The fields are the model's form of the port (R10, R32; log 3, log 5). -/
def Obligations.PortFrame : Prop :=
  ∀ (i : Instr) (s t : State), exec i s = .next t →
    t.inbox = s.inbox ∧ t.word = s.word ∧ t.payload = s.payload ∧ t.response = s.response ∧
    (sendsPayload i = false → t.portOut = s.portOut) ∧ (drawsFree i = false → t.drawn = s.drawn)

/-- A command depends only on its source cells, `FLT`, its payload and, for a free value, the model's count of them
(R22): two states that agree on these agree afterwards on the fault taken or on all the command writes. -/
def Obligations.ReadsOnlySources : Prop :=
  ∀ (i : Instr) (s s' t : State), s.flt = false → s'.flt = false → s.payload = s'.payload → s.drawn = s'.drawn →
    (∀ o ∈ instrSources i, ∀ c, o.covers c → readCell s.cells c = readCell s'.cells c) → exec i s = .next t →
    ∃ t', exec i s' = .next t' ∧ t'.flt = t.flt ∧
      (t.flt = true → t'.fcode = t.fcode) ∧
      (t.flt = false →
        (∀ c, writesCell i c → readCell t'.cells c = readCell t.cells c) ∧
        (writesT i = true → t'.flagT = t.flagT) ∧ (writesN i = true → t'.flagN = t.flagN) ∧
        (writesL i = true → t'.flagL = t.flagL) ∧ (sendsPayload i = true → t'.portOut = t.portOut) ∧
        t'.drawn = t.drawn)

/-- Every write keeps the data model (R12): a command that completes with a value leaves in every cell of its destination
an integer that a typed read of that cell admits. -/
def Obligations.ResultsReadBack : Prop :=
  ∀ (i : Instr) (s t : State) (d : Source), exec i s = .next t → s.flt = false → t.flt = false →
    instrResult i = some d → (writesN i = true → t.flagN = false) → ∀ j < sourceWidth d,
    ∃ v, readCell t.cells (d.start + j) = some v ∧ ∀ k, d.kindAt j = some k → k.Admits v

/-- `None` (R331): after an `inv`, `div`, `sqrt` or `pdec` that ran, `N` tells whether the answer was `None`; then every cell
of the destination is unwritten, else every one is valid; `FLT`, `FCODE`, `FCMD`, `T` and `L` are unchanged. -/
def Obligations.NoneOutcome : Prop :=
  ∀ (i : Instr) (s t : State) (d : Source), writesN i = true → instrResult i = some d → s.flt = false →
    exec i s = .next t → t.flt = false →
    (∀ c, d.covers c → (readCell t.cells c = none ↔ t.flagN = true)) ∧ t.fcode = s.fcode ∧ t.fcmd = s.fcmd ∧
      t.flagT = s.flagT ∧ t.flagL = s.flagL

/-! ### System commands (49_host_and_control.md) -/

/-- `nop` changes nothing (R320), `ldi` writes the zero-extended immediate (R324), and `mov` copies `n` cells as they stood
before, however the ranges overlap (R323). -/
def Obligations.NopLdiMovResults : Prop :=
  (∀ s : State, s.flt = false → exec .nop s = .next s) ∧
  (∀ (s : State) (rd : CellIdx) (imm : Imm), s.flt = false →
    exec (.ldi rd imm) s = .next (s.write rd.toNat [imm.toNat])) ∧
  ∀ (s : State) (rd ra : CellIdx) (n : Imm) (vs : List Nat), s.flt = false → vs.length = n.toNat → holds s ra vs →
    fits rd n.toNat → ∃ t, exec (.mov rd ra n) s = .next t ∧ t = s.write rd.toNat vs ∧
      ∀ j v, vs[j]? = some v → readCell t.cells (rd.toNat + j) = some v

/-- `ld` writes the integer of the payload, limb 0 least significant, as it is (R321, R33); `st` sends the limbs of the
cell's integer and writes no cell (R322, R34). -/
def Obligations.LdStResults : Prop :=
  (∀ (s : State) (rd : CellIdx), s.flt = false → s.payload.length = Config.params.limbs →
    ∃ v, v = ∑ j ∈ Finset.range Config.params.limbs, (s.payload.getD j 0).toNat * 2 ^ (64 * j) ∧
      v < 2 ^ Config.params.width ∧ exec (.ld rd) s = .next (s.write rd.toNat [v])) ∧
  ∀ (s : State) (ra : CellIdx) (v : Nat), s.flt = false → holds s ra [v] →
    ∃ out : List Limb, out.length = Config.params.limbs ∧
      (∀ j l, out[j]? = some l → l.toNat = v / 2 ^ (64 * j) % 2 ^ 64) ∧
      exec (.st ra) s = .next { s with portOut := out }

/-! ### Constants and predicates (41_prime_field.md, 42_extension_tower.md, 44_curve_group.md) -/

/-- The constants of `zero` and `one` of each field, `char`, `pzero`, `pgen` and `cof`
(R102, R103, R117, R142, R143, R157, R158, R172, R173, R232, R242, R243). -/
def Obligations.ConstantResults : Prop :=
  Constant rawForm .zeroFq 0 ∧ Constant rawForm .zeroFr 0 ∧ Constant rawForm .oneFq 1 ∧ Constant rawForm .oneFr 1 ∧
  Constant rawForm .charFq Config.params.q ∧ Constant rawForm .charFr Config.params.r ∧
  Constant fq2Form .zeroFq2 ⟨0, 0⟩ ∧ Constant fq2Form .oneFq2 ⟨1, 0⟩ ∧
  Constant fq6Form .zeroFq6 ⟨⟨0, 0⟩, ⟨0, 0⟩, ⟨0, 0⟩⟩ ∧ Constant fq6Form .oneFq6 ⟨⟨1, 0⟩, ⟨0, 0⟩, ⟨0, 0⟩⟩ ∧
  Constant fq12Form .zeroFq12 ⟨⟨⟨0, 0⟩, ⟨0, 0⟩, ⟨0, 0⟩⟩, ⟨⟨0, 0⟩, ⟨0, 0⟩, ⟨0, 0⟩⟩⟩ ∧
  Constant fq12Form .oneFq12 ⟨⟨⟨1, 0⟩, ⟨0, 0⟩, ⟨0, 0⟩⟩, ⟨⟨0, 0⟩, ⟨0, 0⟩, ⟨0, 0⟩⟩⟩ ∧
  Constant jacForm .pzero ⟨0, 1, 0⟩ ∧ Constant affForm .pgen ⟨Config.params.genX, Config.params.genY, 0⟩ ∧
  Constant rawForm .cof Config.params.cofactor

/-- `isz` and `isone` of each field set `T` exactly for zero and for one, `eq` exactly when all cells of the operands are equal
(R104, R105, R106, R144, R145, R146, R159, R160, R161, R174, R175, R176). -/
def Obligations.ZeroOneEqTests : Prop :=
  Test (primeForm Config.params.q) .iszFq (· = 0) ∧ Test (primeForm Config.params.r) .iszFr (· = 0) ∧
  Test (primeForm Config.params.q) .isoneFq (· = 1) ∧ Test (primeForm Config.params.r) .isoneFr (· = 1) ∧
  Test fq2Form .iszFq2 (fun a => ∀ c ∈ fq2Form.cells a, c = 0) ∧
  Test fq6Form .iszFq6 (fun a => ∀ c ∈ fq6Form.cells a, c = 0) ∧
  Test fq12Form .iszFq12 (fun a => ∀ c ∈ fq12Form.cells a, c = 0) ∧
  Test fq2Form .isoneFq2 (fun a => fq2Form.cells a = 1 :: List.replicate 1 0) ∧
  Test fq6Form .isoneFq6 (fun a => fq6Form.cells a = 1 :: List.replicate 5 0) ∧
  Test fq12Form .isoneFq12 (fun a => fq12Form.cells a = 1 :: List.replicate 11 0) ∧
  Compare (primeForm Config.params.q) .eqFq (· = ·) ∧ Compare (primeForm Config.params.r) .eqFr (· = ·) ∧
  Compare fq2Form .eqFq2 (fun a b => fq2Form.cells a = fq2Form.cells b) ∧
  Compare fq6Form .eqFq6 (fun a b => fq6Form.cells a = fq6Form.cells b) ∧
  Compare fq12Form .eqFq12 (fun a b => fq12Form.cells a = fq12Form.cells b)

/-! ### The modular adder and its tower forms -/

/-- `add` and `sub` of each field write the reduced element that is the sum, the difference in the field
(R107, R108, R147, R148, R162, R163, R177, R178). -/
def Obligations.AddSubResults : Prop :=
  Binary (primeForm Config.params.q) (primeForm Config.params.q) (primeForm Config.params.q) .addFq
    (fun a b c => (c : ZMod Config.params.q) = a + b) ∧
  Binary (primeForm Config.params.r) (primeForm Config.params.r) (primeForm Config.params.r) .addFr
    (fun a b c => (c : ZMod Config.params.r) = a + b) ∧
  Binary fq2Form fq2Form fq2Form .addFq2
    (fun a b c => InTower fun _ _ u _ _ => evalFq2 u c = evalFq2 u a + evalFq2 u b) ∧
  Binary fq6Form fq6Form fq6Form .addFq6
    (fun a b c => InTower fun _ _ u v _ => evalFq6 u v c = evalFq6 u v a + evalFq6 u v b) ∧
  Binary fq12Form fq12Form fq12Form .addFq12
    (fun a b c => InTower fun _ _ u v w => evalFq12 u v w c = evalFq12 u v w a + evalFq12 u v w b) ∧
  Binary (primeForm Config.params.q) (primeForm Config.params.q) (primeForm Config.params.q) .subFq
    (fun a b c => (c : ZMod Config.params.q) = a - b) ∧
  Binary (primeForm Config.params.r) (primeForm Config.params.r) (primeForm Config.params.r) .subFr
    (fun a b c => (c : ZMod Config.params.r) = a - b) ∧
  Binary fq2Form fq2Form fq2Form .subFq2
    (fun a b c => InTower fun _ _ u _ _ => evalFq2 u c = evalFq2 u a - evalFq2 u b) ∧
  Binary fq6Form fq6Form fq6Form .subFq6
    (fun a b c => InTower fun _ _ u v _ => evalFq6 u v c = evalFq6 u v a - evalFq6 u v b) ∧
  Binary fq12Form fq12Form fq12Form .subFq12
    (fun a b c => InTower fun _ _ u v w => evalFq12 u v w c = evalFq12 u v w a - evalFq12 u v w b)

/-- `neg` and `dbl` of each field write the reduced negative, so `neg 0` is 0, and the reduced double
(R110, R111, R150, R151, R165, R166, R180, R181). -/
def Obligations.NegDblResults : Prop :=
  Unary (primeForm Config.params.q) (primeForm Config.params.q) .negFq
    (fun a c => (c : ZMod Config.params.q) = -a ∧ (a = 0 → c = 0)) ∧
  Unary (primeForm Config.params.r) (primeForm Config.params.r) .negFr
    (fun a c => (c : ZMod Config.params.r) = -a ∧ (a = 0 → c = 0)) ∧
  Unary fq2Form fq2Form .negFq2 (fun a c => InTower fun _ _ u _ _ => evalFq2 u c = -evalFq2 u a) ∧
  Unary fq6Form fq6Form .negFq6 (fun a c => InTower fun _ _ u v _ => evalFq6 u v c = -evalFq6 u v a) ∧
  Unary fq12Form fq12Form .negFq12 (fun a c => InTower fun _ _ u v w => evalFq12 u v w c = -evalFq12 u v w a) ∧
  Unary (primeForm Config.params.q) (primeForm Config.params.q) .dblFq
    (fun a c => (c : ZMod Config.params.q) = 2 * a) ∧
  Unary (primeForm Config.params.r) (primeForm Config.params.r) .dblFr
    (fun a c => (c : ZMod Config.params.r) = 2 * a) ∧
  Unary fq2Form fq2Form .dblFq2 (fun a c => InTower fun _ _ u _ _ => evalFq2 u c = 2 * evalFq2 u a) ∧
  Unary fq6Form fq6Form .dblFq6 (fun a c => InTower fun _ _ u v _ => evalFq6 u v c = 2 * evalFq6 u v a) ∧
  Unary fq12Form fq12Form .dblFq12 (fun a c => InTower fun _ _ u v w => evalFq12 u v w c = 2 * evalFq12 u v w a)

/-! ### The multiplier and its tower forms -/

/-- `mul` and `sqr` of the prime fields, `mulnr.fq` and `red` write the reduced product, square, multiple by `β` and
remainder (R109, R112, R205, R121). -/
def Obligations.PrimeProductResults : Prop :=
  Binary (primeForm Config.params.q) (primeForm Config.params.q) (primeForm Config.params.q) .mulFq
    (fun a b c => (c : ZMod Config.params.q) = a * b) ∧
  Binary (primeForm Config.params.r) (primeForm Config.params.r) (primeForm Config.params.r) .mulFr
    (fun a b c => (c : ZMod Config.params.r) = a * b) ∧
  Unary (primeForm Config.params.q) (primeForm Config.params.q) .sqrFq
    (fun a c => (c : ZMod Config.params.q) = (a : ZMod Config.params.q) ^ 2) ∧
  Unary (primeForm Config.params.r) (primeForm Config.params.r) .sqrFr
    (fun a c => (c : ZMod Config.params.r) = (a : ZMod Config.params.r) ^ 2) ∧
  Unary (primeForm Config.params.q) (primeForm Config.params.q) .mulnrFq
    (fun a c => (c : ZMod Config.params.q) = Config.params.nonres2 * a) ∧
  Unary rawForm (primeForm Config.params.q) .redFq (fun a c => (c : ZMod Config.params.q) = a) ∧
  Unary rawForm (primeForm Config.params.r) .redFr (fun a c => (c : ZMod Config.params.r) = a)

/-- `mul`, `sqr` and `mulnr` of the tower are the product, the square and the multiple by the non-residue in
`Fq[u]/(u² − β)`, `Fq2[v]/(v³ − ξ)` and `Fq6[w]/(w² − γ)` (R140, R149, R152, R164, R167, R179, R182, R206, R207). -/
def Obligations.TowerProductResults : Prop :=
  Binary fq2Form fq2Form fq2Form .mulFq2
    (fun a b c => InTower fun _ _ u _ _ => evalFq2 u c = evalFq2 u a * evalFq2 u b) ∧
  Binary fq6Form fq6Form fq6Form .mulFq6
    (fun a b c => InTower fun _ _ u v _ => evalFq6 u v c = evalFq6 u v a * evalFq6 u v b) ∧
  Binary fq12Form fq12Form fq12Form .mulFq12
    (fun a b c => InTower fun _ _ u v w => evalFq12 u v w c = evalFq12 u v w a * evalFq12 u v w b) ∧
  Unary fq2Form fq2Form .sqrFq2 (fun a c => InTower fun _ _ u _ _ => evalFq2 u c = evalFq2 u a ^ 2) ∧
  Unary fq6Form fq6Form .sqrFq6 (fun a c => InTower fun _ _ u v _ => evalFq6 u v c = evalFq6 u v a ^ 2) ∧
  Unary fq12Form fq12Form .sqrFq12
    (fun a c => InTower fun _ _ u v w => evalFq12 u v w c = evalFq12 u v w a ^ 2) ∧
  Unary fq2Form fq2Form .mulnrFq2 (fun a c => InTower fun _ _ u v _ => evalFq2 u c = v ^ 3 * evalFq2 u a) ∧
  Unary fq6Form fq6Form .mulnrFq6 (fun a c => InTower fun _ _ u v w => evalFq6 u v c = w ^ 2 * evalFq6 u v a)

/-- `mul01`, `mul014` and `mul034` are the full products by the zero-padded operand (R208, R209, R210, R211). -/
def Obligations.SparseProductResults : Prop :=
  Binary fq6Form pairForm fq6Form .mul01Fq6
    (fun a s c => InTower fun _ _ u v _ =>
      evalFq6 u v c = evalFq6 u v a * (evalFq2 u s.1 + evalFq2 u s.2 * v)) ∧
  Binary fq12Form tripleForm fq12Form .mul014Fq12
    (fun a s c => InTower fun _ _ u v w =>
      evalFq12 u v w c = evalFq12 u v w a * (evalFq2 u s.1 + evalFq2 u s.2.1 * v + evalFq2 u s.2.2 * v * w)) ∧
  Binary fq12Form tripleForm fq12Form .mul034Fq12
    (fun a s c => InTower fun _ _ u v w =>
      evalFq12 u v w c = evalFq12 u v w a * (evalFq2 u s.1 + evalFq2 u s.2.1 * w + evalFq2 u s.2.2 * v * w))

/-- `pow` of each field is the power by the raw integer of the exponent cell, 1 for the exponent 0
(R115, R155, R170, R185). -/
def Obligations.PowerResults : Prop :=
  Binary (primeForm Config.params.q) rawForm (primeForm Config.params.q) .powFq
    (fun a e c => (c : ZMod Config.params.q) = (a : ZMod Config.params.q) ^ e) ∧
  Binary (primeForm Config.params.r) rawForm (primeForm Config.params.r) .powFr
    (fun a e c => (c : ZMod Config.params.r) = (a : ZMod Config.params.r) ^ e) ∧
  Binary fq2Form rawForm fq2Form .powFq2
    (fun a e c => InTower fun _ _ u _ _ => evalFq2 u c = evalFq2 u a ^ e) ∧
  Binary fq6Form rawForm fq6Form .powFq6
    (fun a e c => InTower fun _ _ u v _ => evalFq6 u v c = evalFq6 u v a ^ e) ∧
  Binary fq12Form rawForm fq12Form .powFq12
    (fun a e c => InTower fun _ _ u v w => evalFq12 u v w c = evalFq12 u v w a ^ e)

/-- `sop` of each field is the sum of the `n` products, 0 for `n = 0` (R116, R156, R171, R186). -/
def Obligations.SumOfProductsResults : Prop :=
  Vectors (primeForm Config.params.q) .sopFq
    (fun as bs c => (c : ZMod Config.params.q) = (List.zipWith (fun a b : Nat => (a : ZMod Config.params.q) * b) as bs).sum) ∧
  Vectors (primeForm Config.params.r) .sopFr
    (fun as bs c => (c : ZMod Config.params.r) = (List.zipWith (fun a b : Nat => (a : ZMod Config.params.r) * b) as bs).sum) ∧
  Vectors fq2Form .sopFq2
    (fun as bs c => InTower fun _ _ u _ _ =>
      evalFq2 u c = (List.zipWith (fun a b => evalFq2 u a * evalFq2 u b) as bs).sum) ∧
  Vectors fq6Form .sopFq6
    (fun as bs c => InTower fun _ _ u v _ =>
      evalFq6 u v c = (List.zipWith (fun a b => evalFq6 u v a * evalFq6 u v b) as bs).sum) ∧
  Vectors fq12Form .sopFq12
    (fun as bs c => InTower fun _ _ u v w =>
      evalFq12 u v w c = (List.zipWith (fun a b => evalFq12 u v w a * evalFq12 u v w b) as bs).sum)

/-! ### The inverse and its tower forms -/

/-- `inv` of the prime fields answers `None` exactly for 0, else the inverse, a reduced `b` with `a · b = 1` (R113). -/
def Obligations.PrimeInverseResults : Prop :=
  PartialUnary (primeForm Config.params.q) (primeForm Config.params.q) .invFq
    (fun a o => (o = none ↔ a = 0) ∧ ∀ b ∈ o, 0 < b ∧ (a : ZMod Config.params.q) * (b : Nat) = 1) ∧
  PartialUnary (primeForm Config.params.r) (primeForm Config.params.r) .invFr
    (fun a o => (o = none ↔ a = 0) ∧ ∀ b ∈ o, 0 < b ∧ (a : ZMod Config.params.r) * (b : Nat) = 1)

/-- `inv` of the tower answers `None` exactly for zero, else the reduced element whose product with the operand is one
(R153, R168, R183). -/
def Obligations.TowerInverseResults : Prop :=
  PartialUnary fq2Form fq2Form .invFq2
    (fun a o => (o = none ↔ ∀ c ∈ fq2Form.cells a, c = 0) ∧
      ∀ b ∈ o, InTower fun _ _ u _ _ => evalFq2 u a * evalFq2 u b = 1) ∧
  PartialUnary fq6Form fq6Form .invFq6
    (fun a o => (o = none ↔ ∀ c ∈ fq6Form.cells a, c = 0) ∧
      ∀ b ∈ o, InTower fun _ _ u v _ => evalFq6 u v a * evalFq6 u v b = 1) ∧
  PartialUnary fq12Form fq12Form .invFq12
    (fun a o => (o = none ↔ ∀ c ∈ fq12Form.cells a, c = 0) ∧
      ∀ b ∈ o, InTower fun _ _ u v w => evalFq12 u v w a * evalFq12 u v w b = 1)

/-- `div` of each field answers `None` exactly for a zero divisor, else the reduced `c` with `c · b = a`
(R114, R154, R169, R184). -/
def Obligations.DivisionResults : Prop :=
  PartialBinary (primeForm Config.params.q) (primeForm Config.params.q) (primeForm Config.params.q) .divFq
    (fun a b o => (o = none ↔ b = 0) ∧ ∀ c ∈ o, ((c : Nat) : ZMod Config.params.q) * b = a) ∧
  PartialBinary (primeForm Config.params.r) (primeForm Config.params.r) (primeForm Config.params.r) .divFr
    (fun a b o => (o = none ↔ b = 0) ∧ ∀ c ∈ o, ((c : Nat) : ZMod Config.params.r) * b = a) ∧
  PartialBinary fq2Form fq2Form fq2Form .divFq2
    (fun a b o => (o = none ↔ ∀ c ∈ fq2Form.cells b, c = 0) ∧
      ∀ c ∈ o, InTower fun _ _ u _ _ => evalFq2 u c * evalFq2 u b = evalFq2 u a) ∧
  PartialBinary fq6Form fq6Form fq6Form .divFq6
    (fun a b o => (o = none ↔ ∀ c ∈ fq6Form.cells b, c = 0) ∧
      ∀ c ∈ o, InTower fun _ _ u v _ => evalFq6 u v c * evalFq6 u v b = evalFq6 u v a) ∧
  PartialBinary fq12Form fq12Form fq12Form .divFq12
    (fun a b o => (o = none ↔ ∀ c ∈ fq12Form.cells b, c = 0) ∧
      ∀ c ∈ o, InTower fun _ _ u v w => evalFq12 u v w c * evalFq12 u v w b = evalFq12 u v w a)

/-- The tower is a field (R140; 00_scope.md R7 WF4): some field in which `u`, `v`, `w` are roots of the three
polynomials has each of its elements as the value of exactly one reduced twelve-tuple. So `InTower` speaks of this field,
and a reduced result is determined by it. -/
def Obligations.TowerIsField : Prop :=
  ∃ (K : Type) (_ : Field K) (u v w : K), TowerRoots K u v w ∧
    ∀ x : K, ∃ a : Fq12, (a.Reduced Config.params.q ∧ evalFq12 u v w a = x) ∧
      ∀ b : Fq12, b.Reduced Config.params.q → evalFq12 u v w b = x → b = a

/-! ### Legendre symbol and square root (41_prime_field.md R118, 47_sqrt.md) -/

/-- `leg` writes `L` from `s = a^((m − 1)/2)`, and the class is `Zero` for 0, `QuadraticResidue` for a non-zero square,
`QuadraticNonResidue` otherwise (R118). -/
def Obligations.LegendreResults : Prop :=
  (∀ (s : State) (ra : CellIdx) (a : Nat), s.flt = false → a < Config.params.q → holds s ra [a] →
    ∃ c : Legendre, exec (.legFq ra) s = .next (s.setL c) ∧
      (c = .zero ↔ (a : ZMod Config.params.q) ^ ((Config.params.q - 1) / 2) = 0) ∧
      (c = .residue ↔ (a : ZMod Config.params.q) ^ ((Config.params.q - 1) / 2) = 1) ∧
      (c = .zero ↔ a = 0) ∧ (c = .residue ↔ a ≠ 0 ∧ IsSquare (a : ZMod Config.params.q))) ∧
  ∀ (s : State) (ra : CellIdx) (a : Nat), s.flt = false → a < Config.params.r → holds s ra [a] →
    ∃ c : Legendre, exec (.legFr ra) s = .next (s.setL c) ∧
      (c = .zero ↔ (a : ZMod Config.params.r) ^ ((Config.params.r - 1) / 2) = 0) ∧
      (c = .residue ↔ (a : ZMod Config.params.r) ^ ((Config.params.r - 1) / 2) = 1) ∧
      (c = .zero ↔ a = 0) ∧ (c = .residue ↔ a ≠ 0 ∧ IsSquare (a : ZMod Config.params.r))

/-- `sqrt` answers `None` exactly for a quadratic non-residue, else a root, and of the two roots the one R304 fixes:
`a·v·g^(s/2)` with `v = a^((T − 1)/2)` and `s` the exponent below `2^n` with `a^T · g^s = 1` (R304, R305). -/
def Obligations.SqrtResults : Prop :=
  PartialUnary (primeForm Config.params.q) (primeForm Config.params.q) .sqrtFq
    (fun a o => (o = none ↔ ¬ IsSquare (a : ZMod Config.params.q)) ∧ ∀ y ∈ o,
      ((y : Nat) : ZMod Config.params.q) ^ 2 = a ∧
      (a ≠ 0 → ∃ s < 2 ^ Config.params.fq.twoAdicity, s % 2 = 0 ∧
        (a : ZMod Config.params.q) ^ Config.params.fq.t * rootGenerator Config.params.fq ^ s = 1 ∧
        ((y : Nat) : ZMod Config.params.q) =
          a * (a : ZMod Config.params.q) ^ ((Config.params.fq.t - 1) / 2) * rootGenerator Config.params.fq ^ (s / 2))) ∧
  PartialUnary (primeForm Config.params.r) (primeForm Config.params.r) .sqrtFr
    (fun a o => (o = none ↔ ¬ IsSquare (a : ZMod Config.params.r)) ∧ ∀ y ∈ o,
      ((y : Nat) : ZMod Config.params.r) ^ 2 = a ∧
      (a ≠ 0 → ∃ s < 2 ^ Config.params.fr.twoAdicity, s % 2 = 0 ∧
        (a : ZMod Config.params.r) ^ Config.params.fr.t * rootGenerator Config.params.fr ^ s = 1 ∧
        ((y : Nat) : ZMod Config.params.r) =
          a * (a : ZMod Config.params.r) ^ ((Config.params.fr.t - 1) / 2) * rootGenerator Config.params.fr ^ (s / 2)))

/-! ### Frobenius and cyclotomic commands (43_frobenius_sparse_cyclotomic.md) -/

/-- `frob` raises to the power `q^(k mod d)`, `d` the degree of the field, which is the power `q^k`; so `k = 0` is the
identity (R201, R202, R203, R204). -/
def Obligations.FrobeniusResults : Prop :=
  (∀ k : Imm, Unary fq2Form fq2Form (fun rd ra => .frobFq2 rd ra k) fun a c =>
    (InTower fun _ _ u _ _ => evalFq2 u c = evalFq2 u a ^ Config.params.q ^ (k.toNat % 2)) ∧
    (InTower fun _ _ u _ _ => evalFq2 u c = evalFq2 u a ^ Config.params.q ^ k.toNat) ∧ (k = 0 → c = a)) ∧
  (∀ k : Imm, Unary fq6Form fq6Form (fun rd ra => .frobFq6 rd ra k) fun a c =>
    (InTower fun _ _ u v _ => evalFq6 u v c = evalFq6 u v a ^ Config.params.q ^ (k.toNat % 6)) ∧
    (InTower fun _ _ u v _ => evalFq6 u v c = evalFq6 u v a ^ Config.params.q ^ k.toNat) ∧ (k = 0 → c = a)) ∧
  ∀ k : Imm, Unary fq12Form fq12Form (fun rd ra => .frobFq12 rd ra k) fun a c =>
    (InTower fun _ _ u v w => evalFq12 u v w c = evalFq12 u v w a ^ Config.params.q ^ (k.toNat % 12)) ∧
    (InTower fun _ _ u v w => evalFq12 u v w c = evalFq12 u v w a ^ Config.params.q ^ k.toNat) ∧ (k = 0 → c = a)

/-- On `C`, the elements with `x^r = 1`, `cycsqr` is the square and `cycexp` the power (R212, R213, R214). -/
def Obligations.CyclotomicInside : Prop :=
  (∀ (s : State) (rd ra : CellIdx) (a : Fq12), s.flt = false → a.Reduced Config.params.q →
    holds s ra (fq12Form.cells a) → fits rd 12 → InCyclotomic a →
    ∃ c : Fq12, c.Reduced Config.params.q ∧ (InTower fun _ _ u v w => evalFq12 u v w c = evalFq12 u v w a ^ 2) ∧
      exec (.cycsqrFq12 rd ra) s = .next (s.write rd.toNat (fq12Form.cells c))) ∧
  ∀ (s : State) (rd ra rb : CellIdx) (a : Fq12) (e : Nat), s.flt = false → a.Reduced Config.params.q →
    holds s ra (fq12Form.cells a) → holds s rb [e] → fits rd 12 → InCyclotomic a →
    ∃ c : Fq12, c.Reduced Config.params.q ∧ (InTower fun _ _ u v w => evalFq12 u v w c = evalFq12 u v w a ^ e) ∧
      exec (.cycexpFq12 rd ra rb) s = .next (s.write rd.toNat (fq12Form.cells c))

/-- Outside `C` the cyclotomic commands write some reduced `Fq12` element, set no flag and raise no fault (R214). Which
element is free: it is whatever the uninterpreted `Config.cycFree` gives at the model's count (log 2). -/
def Obligations.CyclotomicOutside : Prop :=
  (∀ (s : State) (rd ra : CellIdx) (a : Fq12), s.flt = false → a.Reduced Config.params.q →
    holds s ra (fq12Form.cells a) → fits rd 12 → ¬ InCyclotomic a →
    ∃ c : Fq12, c.Reduced Config.params.q ∧
      exec (.cycsqrFq12 rd ra) s = .next { s.write rd.toNat (fq12Form.cells c) with drawn := s.drawn + 1 }) ∧
  ∀ (s : State) (rd ra rb : CellIdx) (a : Fq12) (e : Nat), s.flt = false → a.Reduced Config.params.q →
    holds s ra (fq12Form.cells a) → holds s rb [e] → fits rd 12 → ¬ InCyclotomic a →
    ∃ c : Fq12, c.Reduced Config.params.q ∧
      exec (.cycexpFq12 rd ra rb) s = .next { s.write rd.toNat (fq12Form.cells c) with drawn := s.drawn + 1 }

/-! ### Curve commands (44_curve_group.md, 45_batch_normalization.md) -/

/-- `pdbl` writes the triple of R235, on the curve or not. -/
def Obligations.PdblResults : Prop := Unary jacForm jacForm .pdbl DoubleRule

/-- `padd` writes the triple of R236: the other operand where one is the identity, the double for equal points, else the
general sum, on the curve or not. -/
def Obligations.PaddResults : Prop := Binary jacForm jacForm jacForm .padd AddRule

/-- `paddm` writes the triple of R237, on the curve or not. -/
def Obligations.PaddmResults : Prop := Binary jacForm affForm jacForm .paddm MixedRule

/-- `pisz` tests `Z = 0`, `aisz` tests `inf = 1`, and `peq` compares by cross-multiplication, the identity first
(R233, R234, R239). -/
def Obligations.PointTests : Prop :=
  Test jacForm .pisz (fun P => P.z = 0) ∧ Test affForm .aisz (fun P => P.inf = 1) ∧
  Compare jacForm .peq fun P Q =>
    (P.z = 0 ∧ Q.z = 0) ∨ (P.z ≠ 0 ∧ Q.z ≠ 0 ∧
      (P.x : Coord) * (Q.z : Coord) ^ 2 = Q.x * (P.z : Coord) ^ 2 ∧
      (P.y : Coord) * (Q.z : Coord) ^ 3 = Q.y * (P.z : Coord) ^ 3)

/-- `peq` holds of two triples exactly when they stand for the same point (R230, R239; 10_state.md R14). -/
def Obligations.PeqSamePoint : Prop :=
  Compare jacForm .peq fun P Q => ∃ X, StandsFor P X ∧ StandsFor Q X

/-- `aneg`, `a2p` and `p2a` write the triples of R238, R240 and R241; the affine identity is always written `(0, 1, 1)` and
the Jacobian identity of `a2p` is `(0, 1, 0)`. -/
def Obligations.PointConversions : Prop :=
  Unary affForm affForm .aneg NegRule ∧
  Unary affForm jacForm .a2p (fun P c => (P.inf = 1 → c = ⟨0, 1, 0⟩) ∧ (P.inf ≠ 1 → c = ⟨P.x, P.y, 1⟩)) ∧
  Unary jacForm affForm .p2a AffineRule

/-- `bnorm` replaces each of its `n` triples by its normal form, and leaves those with `Z = 0` or `Z = 1` as they are
(R270, R271). -/
def Obligations.BnormResults : Prop :=
  ∀ (s : State) (rd : CellIdx) (n : Imm) (ps : List Jacobian), s.flt = false → ps.length = n.toNat →
    (∀ P ∈ ps, P.Reduced Config.params.q) → holds s rd (ps.flatMap jacForm.cells) →
    ∃ ps', List.Forall₂ NormalRule ps ps' ∧
      exec (.bnorm rd n) s = .next (s.write rd.toNat (ps'.flatMap jacForm.cells))

/-- Montgomery's trick, one inversion for the whole batch, gives the same triples as an inversion for each
(R271, R272). -/
def Obligations.BatchSharedInversion : Prop :=
  ∀ ps : List Jacobian, (∀ P ∈ ps, P.Reduced Config.params.q) →
    batchNormalizeShared Config.params ps = batchNormalize Config.params ps

/-- `pdec` answers `None` exactly when `x³ + a·x + b` is a non-residue, else the point with that `x` on the curve whose `y`
is the larger of the two roots as integers for the selector 1 and the smaller for 0 (R253). -/
def Obligations.PdecResults : Prop :=
  ∀ sign : Imm, sign.toNat ≤ 1 →
    PartialUnary (primeForm Config.params.q) affForm (fun rd ra => .pdec rd ra sign) fun x o =>
      (o = none ↔ ¬ IsSquare ((x : Coord) ^ 3 + Config.params.coeffA * x + Config.params.coeffB)) ∧
      ∀ P ∈ o, P.x = x ∧ P.inf = 0 ∧ (P.y : Coord) ^ 2 = (x : Coord) ^ 3 + Config.params.coeffA * x + Config.params.coeffB ∧
        (sign = 0 → 2 * P.y < Config.params.q) ∧ (sign = 1 → P.y = 0 ∨ Config.params.q < 2 * P.y)

/-! ### Scalar multiplication (46_scalar_mul.md) -/

/-- The recoding gives the windowed non-adjacent form, of at most `bitlen(e) + 1` digits, none for 0 (R284). -/
def Obligations.WnafProperties : Prop :=
  ∀ e : Nat, IsWnaf e (wnaf e) ∧ (wnaf e).length ≤ bitLen e + 1 ∧ (e = 0 → wnaf e = [])

/-- `pmuln` writes the triple of the double-and-add loop of R287, on the curve or not: `(0, 1, 0)` for 0 and `P` itself
for 1. -/
def Obligations.PmulnResults : Prop :=
  Binary jacForm rawForm jacForm .pmuln fun P e c => NaiveRule P e c ∧ (e = 0 → c = ⟨0, 1, 0⟩) ∧ (e = 1 → c = P)

/-- `pmul` writes the triple of the GLV algorithm, in the subgroup or not: the decomposition, the two odd-multiples tables
made affine, the two recodings under their signs, and the combined loop (R281 to R286). -/
def Obligations.PmulResults : Prop := Binary jacForm (primeForm Config.params.r) jacForm .pmul GlvRule

/-- The chord-and-tangent sum makes the points of the curve a commutative group with identity `O` and opposite
`(x, −y)`, and multiples distribute over sums. R255 and R288 speak of this group; that its law is chord and tangent is
the model's choice, for the spec does not write it out (log 12). -/
def Obligations.PointGroupLaws : Prop :=
  (∀ P Q : Point, OnCurve P → OnCurve Q → OnCurve (pointAdd Config.params P Q) ∧
    pointAdd Config.params P Q = pointAdd Config.params Q P) ∧
  (∀ P Q R : Point, OnCurve P → OnCurve Q → OnCurve R →
    pointAdd Config.params (pointAdd Config.params P Q) R = pointAdd Config.params P (pointAdd Config.params Q R)) ∧
  (∀ P : Point, OnCurve P → pointAdd Config.params P none = P) ∧
  (∀ x y : Nat, OnCurve (some (x, y)) →
    pointAdd Config.params (some (x, y)) (some (x, negMod Config.params.q y)) = none) ∧
  ∀ (P Q : Point) (k : Nat), OnCurve P → OnCurve Q →
    pointMul Config.params (pointAdd Config.params P Q) k =
      pointAdd Config.params (pointMul Config.params P k) (pointMul Config.params Q k)

/-- For operands on the curve every group command writes a triple of the right point: `pdbl` of the double, `padd` and
`paddm` of the sum, `a2p`, `p2a` of the same point, `aneg` of the opposite (R231, R255). The sum is chord and tangent, the
model's choice of the group law, which the spec does not write out (log 12). -/
def Obligations.PointCommandsFollowGroup : Prop :=
  Unary jacForm jacForm .pdbl (fun P c => ∀ X, OnCurve X → StandsFor P X → StandsFor c (pointAdd Config.params X X)) ∧
  Binary jacForm jacForm jacForm .padd (fun P Q c => ∀ X Y, OnCurve X → OnCurve Y → StandsFor P X → StandsFor Q Y →
    StandsFor c (pointAdd Config.params X Y)) ∧
  Binary jacForm affForm jacForm .paddm (fun P Q c => ∀ X Y, OnCurve X → OnCurve Y → StandsFor P X →
    AffineStandsFor Q Y → StandsFor c (pointAdd Config.params X Y)) ∧
  Unary affForm jacForm .a2p (fun P c => ∀ X, AffineStandsFor P X → StandsFor c X) ∧
  Unary jacForm affForm .p2a (fun P c => ∀ X, StandsFor P X → AffineStandsFor c X) ∧
  Unary affForm affForm .aneg (fun P c => ∀ X Y, OnCurve X → AffineStandsFor P X → AffineStandsFor c Y →
    pointAdd Config.params X Y = none)

/-- `pmuln` of a triple of a point on the curve by any raw multiplier `e` is a triple of `e·P`, and of the generator by `r`
an identity triple (R255, R287). The multiple is that of the chord-and-tangent law, the model's choice, for the spec does
not write the group law out (log 12). -/
def Obligations.PmulnScalarMultiple : Prop :=
  Binary jacForm rawForm jacForm .pmuln fun P e c =>
    (∀ X, OnCurve X → StandsFor P X → StandsFor c (pointMul Config.params X e)) ∧
    (StandsFor P Config.params.generator → e = Config.params.r → c.z = 0)

/-- The correctness law (R288): for a triple of a point of the order-`r` subgroup and a scalar below `r`, `pmul` is a triple
of `k·P`, the point of `pmuln`. The multiple is that of the chord-and-tangent law and the subgroup is that of the multiples of
the generator, both the model's reading, for the spec writes out neither (log 12). -/
def Obligations.PmulScalarMultiple : Prop :=
  Binary jacForm (primeForm Config.params.r) jacForm .pmul fun P k c =>
    ∀ X, InSubgroup X → StandsFor P X → StandsFor c (pointMul Config.params X k)
end

