-- ==== Sys2Proof/Config/Toy.lean ====
section
/-! DEFINITION. The record `TOY` of 95_test_vectors.md section 2, value for value (00_scope.md R8). The machine does
not run on it: it is the record on which the spec's worked vectors are checked in the tests. -/

namespace Sys2Proof

/-- `glv_decompose` of `TOY` (95_test_vectors.md section 2), all divisions floor divisions of naturals. -/
def Params.toyGlv (k : Nat) : GlvSplit :=
  let r := 68892664325761
  let x2 := 8300161
  let c1 := (2 * k * x2 + r) / (2 * r)
  let c2 := (2 * k + r) / (2 * r)
  let k1s : Int := (k : Int) - c1 * (x2 - 1) - c2
  let k2s : Int := (c1 : Int) - c2 * x2
  ⟨k1s.natAbs, k2s.natAbs, decide (k1s < 0), decide (k2s < 0)⟩

/-- An `Fq` constant as an `Fq2` element. -/
def Params.toyFq2 (c : Nat) : Fq2 := ⟨c, 0⟩

/-- An `Fq` constant as an `Fq6` element. -/
def Params.toyFq6 (c : Nat) : Fq6 := ⟨⟨c, 0⟩, ⟨0, 0⟩, ⟨0, 0⟩⟩

/-- `TOY`. `Q1 .. HALF_R` are not used by its `glv_decompose` and stand as 0. -/
def Params.toy : Params where
  width := 128
  fq := {
    modulus := 190474438327864015681
    generator := 7
    twoAdicity := 6
    t := 2976163098872875245
    powersOfG := [115535470812513813551, 126684128900640093607, 77729639667101426525, 159441319592835230654,
      19970769880700049350] }
  fr := {
    modulus := 68892664325761
    generator := 14
    twoAdicity := 7
    t := 538223940045
    powersOfG := [30891591556272, 42762289812986, 41234412639683, 19312488564684, 52369500168644, 68868751561920] }
  nonres2 := 7
  nonres6 := ⟨0, 1⟩
  nonres12 := ⟨⟨0, 0⟩, ⟨1, 0⟩, ⟨0, 0⟩⟩
  frob2 := [1, 190474438327864015680]
  frob6c1 := [1, 190276165144308326400, 190276165144308326399, 190474438327864015680, 198273183555689281,
    198273183555689282].map Params.toyFq2
  frob6c2 := [1, 190276165144308326399, 198273183555689281, 1, 190276165144308326399,
    198273183555689281].map Params.toyFq2
  frob12c1 := [1, 164924435509281192379, 190276165144308326400, 19970769880700049350, 190276165144308326399,
    45520772699282872652, 190474438327864015680, 25550002818582823302, 198273183555689281, 170503668447163966331,
    198273183555689282, 144953665628581143029].map Params.toyFq6
  coeffA := 0
  coeffB := 1
  cofactor := 2764800
  genX := 70870921040254545167
  genY := 124112215922532319257
  endoBeta := 198273183555689281
  lambda := 8300160
  q1 := 0
  q2 := 0
  b1 := 0
  b2 := 0
  r128 := 0
  halfR := 0
  glvDecompose := Params.toyGlv

end Sys2Proof
end

