-- ==== Sys2Proof/Laws/State.lean ====
section
/-! SUPPORT. One lemma per field per update of the state, and the flags after each update. -/

namespace Sys2Proof.Machine

/-! ### `State.write` -/

@[simp] theorem write_cells (s : State) (i : Nat) (vs : List Nat) :
    (s.write i vs).cells = writeCells s.cells i vs := rfl
@[simp] theorem write_status (s : State) (i : Nat) (vs : List Nat) :
    (s.write i vs).status = s.status := rfl
@[simp] theorem write_fcmd (s : State) (i : Nat) (vs : List Nat) :
    (s.write i vs).fcmd = s.fcmd := rfl
@[simp] theorem write_inbox (s : State) (i : Nat) (vs : List Nat) :
    (s.write i vs).inbox = s.inbox := rfl
@[simp] theorem write_word (s : State) (i : Nat) (vs : List Nat) :
    (s.write i vs).word = s.word := rfl
@[simp] theorem write_payload (s : State) (i : Nat) (vs : List Nat) :
    (s.write i vs).payload = s.payload := rfl
@[simp] theorem write_portOut (s : State) (i : Nat) (vs : List Nat) :
    (s.write i vs).portOut = s.portOut := rfl
@[simp] theorem write_response (s : State) (i : Nat) (vs : List Nat) :
    (s.write i vs).response = s.response := rfl
@[simp] theorem write_drawn (s : State) (i : Nat) (vs : List Nat) :
    (s.write i vs).drawn = s.drawn := rfl

/-! ### `State.unwrite` -/

@[simp] theorem unwrite_cells (s : State) (i n : Nat) :
    (s.unwrite i n).cells = eraseCells s.cells i n := rfl
@[simp] theorem unwrite_status (s : State) (i n : Nat) :
    (s.unwrite i n).status = s.status := rfl
@[simp] theorem unwrite_fcmd (s : State) (i n : Nat) :
    (s.unwrite i n).fcmd = s.fcmd := rfl
@[simp] theorem unwrite_inbox (s : State) (i n : Nat) :
    (s.unwrite i n).inbox = s.inbox := rfl
@[simp] theorem unwrite_word (s : State) (i n : Nat) :
    (s.unwrite i n).word = s.word := rfl
@[simp] theorem unwrite_payload (s : State) (i n : Nat) :
    (s.unwrite i n).payload = s.payload := rfl
@[simp] theorem unwrite_portOut (s : State) (i n : Nat) :
    (s.unwrite i n).portOut = s.portOut := rfl
@[simp] theorem unwrite_response (s : State) (i n : Nat) :
    (s.unwrite i n).response = s.response := rfl
@[simp] theorem unwrite_drawn (s : State) (i n : Nat) :
    (s.unwrite i n).drawn = s.drawn := rfl

/-! ### `State.setT` -/

@[simp] theorem setT_cells (s : State) (b : Bool) :
    (s.setT b).cells = s.cells := rfl
@[simp] theorem setT_status (s : State) (b : Bool) :
    (s.setT b).status = putField s.status 0x0001 (if b then 0x0001 else 0) := rfl
@[simp] theorem setT_fcmd (s : State) (b : Bool) :
    (s.setT b).fcmd = s.fcmd := rfl
@[simp] theorem setT_inbox (s : State) (b : Bool) :
    (s.setT b).inbox = s.inbox := rfl
@[simp] theorem setT_word (s : State) (b : Bool) :
    (s.setT b).word = s.word := rfl
@[simp] theorem setT_payload (s : State) (b : Bool) :
    (s.setT b).payload = s.payload := rfl
@[simp] theorem setT_portOut (s : State) (b : Bool) :
    (s.setT b).portOut = s.portOut := rfl
@[simp] theorem setT_response (s : State) (b : Bool) :
    (s.setT b).response = s.response := rfl
@[simp] theorem setT_drawn (s : State) (b : Bool) :
    (s.setT b).drawn = s.drawn := rfl

/-! ### `State.setN` -/

@[simp] theorem setN_cells (s : State) (b : Bool) :
    (s.setN b).cells = s.cells := rfl
@[simp] theorem setN_status (s : State) (b : Bool) :
    (s.setN b).status = putField s.status 0x0002 (if b then 0x0002 else 0) := rfl
@[simp] theorem setN_fcmd (s : State) (b : Bool) :
    (s.setN b).fcmd = s.fcmd := rfl
@[simp] theorem setN_inbox (s : State) (b : Bool) :
    (s.setN b).inbox = s.inbox := rfl
@[simp] theorem setN_word (s : State) (b : Bool) :
    (s.setN b).word = s.word := rfl
@[simp] theorem setN_payload (s : State) (b : Bool) :
    (s.setN b).payload = s.payload := rfl
@[simp] theorem setN_portOut (s : State) (b : Bool) :
    (s.setN b).portOut = s.portOut := rfl
@[simp] theorem setN_response (s : State) (b : Bool) :
    (s.setN b).response = s.response := rfl
@[simp] theorem setN_drawn (s : State) (b : Bool) :
    (s.setN b).drawn = s.drawn := rfl

/-! ### `State.setL` -/

@[simp] theorem setL_cells (s : State) (c : Legendre) :
    (s.setL c).cells = s.cells := rfl
@[simp] theorem setL_status (s : State) (c : Legendre) :
    (s.setL c).status = putField s.status 0x000C ((legendreCode c).setWidth 16 <<< 2) := rfl
@[simp] theorem setL_fcmd (s : State) (c : Legendre) :
    (s.setL c).fcmd = s.fcmd := rfl
@[simp] theorem setL_inbox (s : State) (c : Legendre) :
    (s.setL c).inbox = s.inbox := rfl
@[simp] theorem setL_word (s : State) (c : Legendre) :
    (s.setL c).word = s.word := rfl
@[simp] theorem setL_payload (s : State) (c : Legendre) :
    (s.setL c).payload = s.payload := rfl
@[simp] theorem setL_portOut (s : State) (c : Legendre) :
    (s.setL c).portOut = s.portOut := rfl
@[simp] theorem setL_response (s : State) (c : Legendre) :
    (s.setL c).response = s.response := rfl
@[simp] theorem setL_drawn (s : State) (c : Legendre) :
    (s.setL c).drawn = s.drawn := rfl

/-! ### `State.begin` -/

@[simp] theorem begin_cells (s : State) (w : CmdWord) (p : List Limb) (rest : List HostEvent) :
    (s.begin w p rest).cells = s.cells := rfl
@[simp] theorem begin_status (s : State) (w : CmdWord) (p : List Limb) (rest : List HostEvent) :
    (s.begin w p rest).status = s.status := rfl
@[simp] theorem begin_fcmd (s : State) (w : CmdWord) (p : List Limb) (rest : List HostEvent) :
    (s.begin w p rest).fcmd = s.fcmd := rfl
@[simp] theorem begin_inbox (s : State) (w : CmdWord) (p : List Limb) (rest : List HostEvent) :
    (s.begin w p rest).inbox = rest := rfl
@[simp] theorem begin_word (s : State) (w : CmdWord) (p : List Limb) (rest : List HostEvent) :
    (s.begin w p rest).word = w := rfl
@[simp] theorem begin_payload (s : State) (w : CmdWord) (p : List Limb) (rest : List HostEvent) :
    (s.begin w p rest).payload = p := rfl
@[simp] theorem begin_portOut (s : State) (w : CmdWord) (p : List Limb) (rest : List HostEvent) :
    (s.begin w p rest).portOut = [] := rfl
@[simp] theorem begin_response (s : State) (w : CmdWord) (p : List Limb) (rest : List HostEvent) :
    (s.begin w p rest).response = none := rfl
@[simp] theorem begin_drawn (s : State) (w : CmdWord) (p : List Limb) (rest : List HostEvent) :
    (s.begin w p rest).drawn = s.drawn := rfl

/-! ### `State.respond` -/

@[simp] theorem respond_cells (s : State) :
    (s.respond).cells = s.cells := rfl
@[simp] theorem respond_status (s : State) :
    (s.respond).status = s.status := rfl
@[simp] theorem respond_fcmd (s : State) :
    (s.respond).fcmd = s.fcmd := rfl
@[simp] theorem respond_inbox (s : State) :
    (s.respond).inbox = s.inbox := rfl
@[simp] theorem respond_word (s : State) :
    (s.respond).word = 0 := rfl
@[simp] theorem respond_payload (s : State) :
    (s.respond).payload = [] := rfl
@[simp] theorem respond_portOut (s : State) :
    (s.respond).portOut = [] := rfl
@[simp] theorem respond_response (s : State) :
    (s.respond).response = some ⟨s.status, s.fcmd, s.portOut⟩ := rfl
@[simp] theorem respond_drawn (s : State) :
    (s.respond).drawn = s.drawn := rfl

/-! ### `takeFault` and `resetBlock` -/

@[simp] theorem takeFault_cells (c : FaultCode) (s : State) :
    (takeFault c s).cells = s.cells := rfl
@[simp] theorem takeFault_status (c : FaultCode) (s : State) :
    (takeFault c s).status = latchFault s.status c := rfl
@[simp] theorem takeFault_fcmd (c : FaultCode) (s : State) :
    (takeFault c s).fcmd = s.word := rfl
@[simp] theorem takeFault_inbox (c : FaultCode) (s : State) :
    (takeFault c s).inbox = s.inbox := rfl
@[simp] theorem takeFault_word (c : FaultCode) (s : State) :
    (takeFault c s).word = s.word := rfl
@[simp] theorem takeFault_payload (c : FaultCode) (s : State) :
    (takeFault c s).payload = s.payload := rfl
@[simp] theorem takeFault_portOut (c : FaultCode) (s : State) :
    (takeFault c s).portOut = s.portOut := rfl
@[simp] theorem takeFault_response (c : FaultCode) (s : State) :
    (takeFault c s).response = s.response := rfl
@[simp] theorem takeFault_drawn (c : FaultCode) (s : State) :
    (takeFault c s).drawn = s.drawn := rfl
@[simp] theorem resetBlock_cells (s : State) : (resetBlock s).cells = [] := rfl
@[simp] theorem resetBlock_status (s : State) : (resetBlock s).status = 0 := rfl
@[simp] theorem resetBlock_fcmd (s : State) : (resetBlock s).fcmd = 0 := rfl
@[simp] theorem resetBlock_inbox (s : State) : (resetBlock s).inbox = s.inbox := rfl
@[simp] theorem resetBlock_word (s : State) : (resetBlock s).word = 0 := rfl
@[simp] theorem resetBlock_payload (s : State) : (resetBlock s).payload = [] := rfl
@[simp] theorem resetBlock_portOut (s : State) : (resetBlock s).portOut = [] := rfl
@[simp] theorem resetBlock_response (s : State) : (resetBlock s).response = none := rfl
@[simp] theorem resetBlock_drawn (s : State) : (resetBlock s).drawn = s.drawn := rfl

end Sys2Proof.Machine
end

