-- ==== Sys2Proof/Laws/Flags.lean ====
section
/-! SUPPORT. What every flag reads as after every update (10_state.md R16): each setter changes its own field and no
other bit of `STATUS`. -/

namespace Sys2Proof.Machine

/-- A bit of `putField` comes from the value inside the mask and from the word outside it. -/
theorem putField_getElem (w mask v : BitVec 16) (i : Nat) (hi : i < 16) :
    (putField w mask v)[i] = if mask[i] then v[i] else w[i] := by
  cases h : mask[i] <;> simp [putField, h]

/-- The same for a bit at any place. -/
theorem putField_getLsbD (w mask v : BitVec 16) (i : Nat) :
    (putField w mask v).getLsbD i = if mask.getLsbD i then v.getLsbD i else w.getLsbD i := by
  by_cases hi : i < 16
  · simpa only [BitVec.getLsbD_eq_getElem hi] using putField_getElem w mask v i hi
  · simp only [BitVec.getLsbD_of_ge _ i (Nat.le_of_not_lt hi)]; simp

theorem legendreCode_bits (c : Legendre) :
    (((legendreCode c).setWidth 16 <<< 2 : BitVec 16)).extractLsb' 2 2 = legendreCode c := by
  cases c <;> decide

/-- Two slices agree when their bits do. -/
theorem extract_congr {w v : BitVec 16} {lo n : Nat} (h : ∀ i, lo ≤ i → i < lo + n → w.getLsbD i = v.getLsbD i) :
    w.extractLsb' lo n = v.extractLsb' lo n := by
  apply BitVec.eq_of_getLsbD_eq
  intro i hi
  rw [BitVec.getLsbD_extractLsb', BitVec.getLsbD_extractLsb', h _ (by omega) (by omega)]

/-- `STATUS` after a setter, bit by bit. -/
theorem mask_bits {mask : BitVec 16} {lo n : Nat} (w v : BitVec 16)
    (h : ∀ i < 16, lo ≤ i → i < lo + n → mask.getLsbD i = false) :
    (putField w mask v).extractLsb' lo n = w.extractLsb' lo n := by
  apply extract_congr
  intro i h1 h2
  by_cases hi : i < 16
  · rw [putField_getLsbD, h i hi h1 h2]; simp
  · simp only [BitVec.getLsbD_of_ge _ i (Nat.le_of_not_lt hi)]

section
variable (s : State) (b : Bool) (c : Legendre) (f : FaultCode)

@[simp] theorem setT_flagT : (s.setT b).flagT = b := by
  cases b <;> simp [State.flagT, putField_getElem]
@[simp] theorem setT_flagN : (s.setT b).flagN = s.flagN := by
  simp [State.flagN, putField_getElem]
@[simp] theorem setT_flagL : (s.setT b).flagL = s.flagL := mask_bits _ _ (by decide)
@[simp] theorem setT_flt : (s.setT b).flt = s.flt := by simp [State.flt, putField_getElem]
@[simp] theorem setT_fcode : (s.setT b).fcode = s.fcode := mask_bits _ _ (by decide)

@[simp] theorem setN_flagT : (s.setN b).flagT = s.flagT := by simp [State.flagT, putField_getElem]
@[simp] theorem setN_flagN : (s.setN b).flagN = b := by
  cases b <;> simp [State.flagN, putField_getElem]
@[simp] theorem setN_flagL : (s.setN b).flagL = s.flagL := mask_bits _ _ (by decide)
@[simp] theorem setN_flt : (s.setN b).flt = s.flt := by simp [State.flt, putField_getElem]
@[simp] theorem setN_fcode : (s.setN b).fcode = s.fcode := mask_bits _ _ (by decide)

@[simp] theorem setL_flagT : (s.setL c).flagT = s.flagT := by simp [State.flagT, putField_getElem]
@[simp] theorem setL_flagN : (s.setL c).flagN = s.flagN := by simp [State.flagN, putField_getElem]
@[simp] theorem setL_flagL : (s.setL c).flagL = legendreCode c := by
  rw [← legendreCode_bits c]
  apply extract_congr
  intro i h1 h2
  have : i = 2 ∨ i = 3 := by omega
  obtain rfl | rfl := this <;> simp [putField_getElem]
@[simp] theorem setL_flt : (s.setL c).flt = s.flt := by simp [State.flt, putField_getElem]
@[simp] theorem setL_fcode : (s.setL c).fcode = s.fcode := mask_bits _ _ (by decide)

@[simp] theorem takeFault_flagT : (takeFault f s).flagT = s.flagT := by
  simp [State.flagT, latchFault, putField_getElem]
@[simp] theorem takeFault_flagN : (takeFault f s).flagN = s.flagN := by
  simp [State.flagN, latchFault, putField_getElem]
@[simp] theorem takeFault_flagL : (takeFault f s).flagL = s.flagL := mask_bits _ _ (by decide)
@[simp] theorem takeFault_flt : (takeFault f s).flt = true := by
  cases f <;> simp [State.flt, latchFault, putField_getElem, faultNumber]
@[simp] theorem takeFault_fcode : (takeFault f s).fcode = faultNumber f := by
  have h : ((0x0010 ||| ((faultNumber f).setWidth 16 <<< 8)) : BitVec 16).extractLsb' 8 4 = faultNumber f := by
    cases f <;> decide
  rw [← h]
  apply extract_congr
  intro i h1 h2
  have : i = 8 ∨ i = 9 ∨ i = 10 ∨ i = 11 := by omega
  obtain rfl | rfl | rfl | rfl := this <;> simp [latchFault, putField_getElem]

end

section
variable (s : State) (i n : Nat) (vs : List Nat) (w : CmdWord) (p : List Limb) (rest : List HostEvent)

@[simp] theorem write_flagT : (s.write i vs).flagT = s.flagT := rfl
@[simp] theorem write_flagN : (s.write i vs).flagN = s.flagN := rfl
@[simp] theorem write_flagL : (s.write i vs).flagL = s.flagL := rfl
@[simp] theorem write_flt : (s.write i vs).flt = s.flt := rfl
@[simp] theorem write_fcode : (s.write i vs).fcode = s.fcode := rfl
@[simp] theorem unwrite_flagT : (s.unwrite i n).flagT = s.flagT := rfl
@[simp] theorem unwrite_flagN : (s.unwrite i n).flagN = s.flagN := rfl
@[simp] theorem unwrite_flagL : (s.unwrite i n).flagL = s.flagL := rfl
@[simp] theorem unwrite_flt : (s.unwrite i n).flt = s.flt := rfl
@[simp] theorem unwrite_fcode : (s.unwrite i n).fcode = s.fcode := rfl
@[simp] theorem begin_flagT : (s.begin w p rest).flagT = s.flagT := rfl
@[simp] theorem begin_flagN : (s.begin w p rest).flagN = s.flagN := rfl
@[simp] theorem begin_flagL : (s.begin w p rest).flagL = s.flagL := rfl
@[simp] theorem begin_flt : (s.begin w p rest).flt = s.flt := rfl
@[simp] theorem begin_fcode : (s.begin w p rest).fcode = s.fcode := rfl
@[simp] theorem respond_flagT : s.respond.flagT = s.flagT := rfl
@[simp] theorem respond_flagN : s.respond.flagN = s.flagN := rfl
@[simp] theorem respond_flagL : s.respond.flagL = s.flagL := rfl
@[simp] theorem respond_flt : s.respond.flt = s.flt := rfl
@[simp] theorem respond_fcode : s.respond.fcode = s.fcode := rfl
@[simp] theorem resetBlock_flt : (resetBlock s).flt = false := by simp [State.flt]

end

/-- The reserved bits of `STATUS` outside the bits a setter may change. -/
theorem putField_reserved (w mask v : BitVec 16) (h : mask &&& 0xF0E0 = 0) :
    putField w mask v &&& 0xF0E0 = w &&& 0xF0E0 := by
  apply BitVec.eq_of_getLsbD_eq
  intro i hi
  have hb := congrArg (fun x => x.getLsbD i) h
  simp only [BitVec.getLsbD_and] at hb ⊢
  rw [putField_getLsbD]
  by_cases hm : mask.getLsbD i = true
  · rw [hm, Bool.true_and] at hb
    have h0 : (0xF0E0 : BitVec 16).getLsbD i = false := hb.trans (by simp)
    rw [h0, Bool.and_false, Bool.and_false]
  · simp only [hm, Bool.false_eq_true, if_false]

@[simp] theorem setT_reserved (s : State) (b : Bool) : (s.setT b).status &&& 0xF0E0#16 = s.status &&& 0xF0E0#16 :=
  putField_reserved _ _ _ (by decide)
@[simp] theorem setN_reserved (s : State) (b : Bool) : (s.setN b).status &&& 0xF0E0#16 = s.status &&& 0xF0E0#16 :=
  putField_reserved _ _ _ (by decide)
@[simp] theorem setL_reserved (s : State) (c : Legendre) : (s.setL c).status &&& 0xF0E0#16 = s.status &&& 0xF0E0#16 :=
  putField_reserved _ _ _ (by decide)
@[simp] theorem takeFault_reserved (c : FaultCode) (s : State) :
    (takeFault c s).status &&& 0xF0E0#16 = s.status &&& 0xF0E0#16 :=
  putField_reserved _ _ _ (by decide)

end Sys2Proof.Machine
end

