-- ==== Sys2Proof/Laws/Store.lean ====
section
/-! SUPPORT. The operand store: what a cell reads as after every write and erase, and that every operation keeps the
canonical form (20_memory.md R30). -/

namespace Sys2Proof.Machine

/-! ### One cell -/

@[simp] theorem readCell_nil (i : Nat) : readCell [] i = none := rfl

theorem readCell_writeCell_same (st : Store) (i v : Nat) : readCell (writeCell st i v) i = some v := by
  induction st with
  | nil => simp [writeCell, readCell]
  | cons c st ih =>
    obtain ⟨k, w⟩ := c
    simp only [writeCell]
    split
    · simp [readCell]
    · split
      · simp [readCell]
      · have : k ≠ i := fun h => by omega
        simp [readCell, this, ih]

theorem readCell_writeCell_ne (st : Store) {i j : Nat} (v : Nat) (h : j ≠ i) :
    readCell (writeCell st i v) j = readCell st j := by
  induction st with
  | nil => simp [writeCell, readCell, Ne.symm h]
  | cons c st ih =>
    obtain ⟨k, w⟩ := c
    simp only [writeCell]
    split
    · simp [readCell, Ne.symm h]
    · split
      · rename_i hk; subst hk; simp [readCell, Ne.symm h]
      · simp [readCell, ih]

/-- What a cell reads as after one write. -/
theorem readCell_writeCell (st : Store) (i v j : Nat) :
    readCell (writeCell st i v) j = if j = i then some v else readCell st j := by
  split
  · subst_vars; exact readCell_writeCell_same st _ v
  · rename_i h; exact readCell_writeCell_ne st v h

/-- What a cell reads as after one erase. -/
theorem readCell_eraseCell (st : Store) (i j : Nat) :
    readCell (eraseCell st i) j = if j = i then none else readCell st j := by
  induction st with
  | nil => simp [eraseCell]
  | cons c st ih =>
    obtain ⟨k, w⟩ := c
    simp only [eraseCell, List.filter_cons] at ih ⊢
    by_cases hk : k = i
    · subst hk
      simp only [bne_self_eq_false, Bool.false_eq_true, if_false, ih, readCell]
      split
      · rfl
      · rename_i h; simp [Ne.symm h]
    · have : (k != i) = true := by simp [hk]
      simp only [this, if_true, readCell, ih]
      by_cases hj : k = j
      · subst hj; simp [hk]
      · simp [hj]

/-! ### A run of cells -/

/-- What a cell reads as after a run of writes. -/
theorem readCell_writeCells (st : Store) (i : Nat) (vs : List Nat) (j : Nat) :
    readCell (writeCells st i vs) j = if i ≤ j ∧ j < i + vs.length then vs[j - i]? else readCell st j := by
  induction vs generalizing st i with
  | nil =>
    have : ¬ (i ≤ j ∧ j < i) := by omega
    simp [writeCells, this]
  | cons v vs ih =>
    simp only [writeCells, ih, readCell_writeCell, List.length_cons]
    by_cases h1 : i + 1 ≤ j ∧ j < i + 1 + vs.length
    · have h2 : i ≤ j ∧ j < i + (vs.length + 1) := by omega
      obtain ⟨d, rfl⟩ : ∃ d, j = i + 1 + d := ⟨j - (i + 1), by omega⟩
      have e : i + 1 + d - i = d + 1 := by omega
      simp [h1, h2, e]
    · by_cases h3 : j = i
      · subst h3; simp
      · have h2 : ¬ (i ≤ j ∧ j < i + (vs.length + 1)) := by omega
        rw [if_neg h1, if_neg h2, if_neg h3]

/-- What a cell reads as after a run of erases. -/
theorem readCell_eraseCells (st : Store) (i n j : Nat) :
    readCell (eraseCells st i n) j = if i ≤ j ∧ j < i + n then none else readCell st j := by
  induction n generalizing st i with
  | zero =>
    have : ¬ (i ≤ j ∧ j < i) := by omega
    simp [eraseCells, this]
  | succ n ih =>
    simp only [eraseCells, ih, readCell_eraseCell]
    by_cases h1 : i + 1 ≤ j ∧ j < i + 1 + n
    · have h2 : i ≤ j ∧ j < i + (n + 1) := by omega
      simp [h1, h2]
    · by_cases h3 : j = i
      · subst h3; simp
      · have h2 : ¬ (i ≤ j ∧ j < i + (n + 1)) := by omega
        rw [if_neg h1, if_neg h2, if_neg h3]

theorem readCell_writeCells_outside (st : Store) (vs : List Nat) {i j : Nat} (h : ¬ (i ≤ j ∧ j < i + vs.length)) :
    readCell (writeCells st i vs) j = readCell st j := by
  rw [readCell_writeCells, if_neg h]

theorem readCell_eraseCells_outside (st : Store) {i n j : Nat} (h : ¬ (i ≤ j ∧ j < i + n)) :
    readCell (eraseCells st i n) j = readCell st j := by
  rw [readCell_eraseCells, if_neg h]

theorem readCell_writeCells_inside (st : Store) (i : Nat) (vs : List Nat) {k v : Nat} (h : vs[k]? = some v) :
    readCell (writeCells st i vs) (i + k) = some v := by
  have hk : k < vs.length := (List.getElem?_eq_some_iff.mp h).1
  rw [readCell_writeCells, if_pos (by omega), Nat.add_sub_cancel_left, h]

/-! ### The canonical form -/

theorem readCell_eq_none_of_forall_ne {st : Store} {i : Nat} (h : ∀ c ∈ st, c.1 ≠ i) : readCell st i = none := by
  induction st with
  | nil => rfl
  | cons c st ih =>
    obtain ⟨k, w⟩ := c
    have := h (k, w) (by simp)
    simp only [readCell, show k ≠ i from this, if_false]
    exact ih fun c hc => h c (by simp [hc])

/-- A cell that reads as a value is an entry. -/
theorem mem_of_readCell {st : Store} {i v : Nat} (h : readCell st i = some v) : (i, v) ∈ st := by
  induction st with
  | nil => simp at h
  | cons c st ih =>
    obtain ⟨k, w⟩ := c
    simp only [readCell] at h
    split at h
    · rename_i hk; subst hk; simp_all
    · simp [ih h]

/-- In canonical form an entry is what its cell reads as. -/
theorem readCell_of_mem {st : Store} (hst : st.Pairwise fun a b => a.1 < b.1) {c : Nat × Nat} (h : c ∈ st) :
    readCell st c.1 = some c.2 := by
  induction st with
  | nil => simp at h
  | cons d st ih =>
    obtain ⟨k, w⟩ := d
    rw [List.pairwise_cons] at hst
    simp only [List.mem_cons] at h
    obtain rfl | h := h
    · simp [readCell]
    · have := hst.1 c h
      have hne : k ≠ c.1 := by simp only at this; omega
      simp only [readCell, hne, if_false]
      exact ih hst.2 h

theorem mem_writeCell {st : Store} {i v : Nat} {c : Nat × Nat} (h : c ∈ writeCell st i v) : c = (i, v) ∨ c ∈ st := by
  induction st with
  | nil => simp_all [writeCell]
  | cons d st ih =>
    obtain ⟨k, w⟩ := d
    simp only [writeCell] at h
    split at h
    · simpa using h
    · split at h
      · simp only [List.mem_cons] at h ⊢; tauto
      · simp only [List.mem_cons] at h ⊢
        rcases h with h | h
        · exact .inr (.inl h)
        · rcases ih h with h | h
          · exact .inl h
          · exact .inr (.inr h)

/-- A write of a cell of the store keeps the canonical form. -/
theorem writeCell_wf {st : Store} (h : storeWf st) {i : Nat} (hi : i < 256) (v : Nat) : storeWf (writeCell st i v) := by
  refine ⟨?_, fun c hc => ?_⟩
  · have h1 := h.1
    clear h
    induction st with
    | nil => simp [writeCell]
    | cons d st ih =>
      obtain ⟨k, w⟩ := d
      rw [List.pairwise_cons] at h1
      simp only [writeCell]
      split
      · rename_i hik
        simp only [List.pairwise_cons, List.mem_cons]
        refine ⟨?_, h1.1, h1.2⟩
        rintro c (rfl | hc)
        · exact hik
        · exact Nat.lt_trans hik (h1.1 c hc)
      · split
        · rename_i hik; subst hik
          exact List.pairwise_cons.mpr ⟨h1.1, h1.2⟩
        · refine List.pairwise_cons.mpr ⟨fun c hc => ?_, ih h1.2⟩
          rcases mem_writeCell hc with rfl | hc
          · show k < i; omega
          · exact h1.1 c hc
  · rcases mem_writeCell hc with rfl | hc
    · exact hi
    · exact h.2 c hc

/-- An erase keeps the canonical form. -/
theorem eraseCell_wf {st : Store} (h : storeWf st) (i : Nat) : storeWf (eraseCell st i) :=
  ⟨h.1.sublist List.filter_sublist, fun c hc => h.2 c (List.mem_of_mem_filter hc)⟩

/-- A run of writes inside the store keeps the canonical form. -/
theorem writeCells_wf {st : Store} (h : storeWf st) {i : Nat} {vs : List Nat} (hi : i + vs.length ≤ 256) :
    storeWf (writeCells st i vs) := by
  induction vs generalizing st i with
  | nil => exact h
  | cons v vs ih =>
    simp only [List.length_cons] at hi
    exact ih (writeCell_wf h (by omega) v) (by omega)

/-- A run of erases keeps the canonical form. -/
theorem eraseCells_wf {st : Store} (h : storeWf st) (i n : Nat) : storeWf (eraseCells st i n) := by
  induction n generalizing st i with
  | zero => exact h
  | succ n ih => exact ih (eraseCell_wf h i) (i + 1)

/-- The store after reset is in canonical form. -/
theorem reset_storeWf : storeWf State.reset.cells := ⟨List.Pairwise.nil, by simp [State.reset]⟩

/-- Two stores in canonical form that read alike are equal. -/
theorem store_ext {a b : Store} (ha : storeWf a) (hb : storeWf b) (h : ∀ i, readCell a i = readCell b i) : a = b := by
  have key : ∀ {a b : Store}, (a.Pairwise fun x y => x.1 < y.1) → (b.Pairwise fun x y => x.1 < y.1) →
      (∀ i, readCell a i = readCell b i) → a = b := by
    intro a
    induction a with
    | nil =>
      intro b _ hb h
      cases b with
      | nil => rfl
      | cons c b => have := h c.1; simp [readCell] at this
    | cons c a ih =>
      intro b ha hb h
      obtain ⟨k, v⟩ := c
      cases b with
      | nil => have := h k; simp [readCell] at this
      | cons d b =>
        obtain ⟨l, w⟩ := d
        rw [List.pairwise_cons] at ha hb
        have ha0 : ∀ i, i ≤ k → readCell a i = none := fun i hi =>
          readCell_eq_none_of_forall_ne fun c hc => by have := ha.1 c hc; simp only at this; omega
        have hb0 : ∀ i, i ≤ l → readCell b i = none := fun i hi =>
          readCell_eq_none_of_forall_ne fun c hc => by have := hb.1 c hc; simp only at this; omega
        have hkl : k = l := by
          rcases Nat.lt_trichotomy k l with hlt | heq | hgt
          · have := h k
            simp [readCell, hb0 k (by omega), show l ≠ k by omega] at this
          · exact heq
          · have := h l
            simp [readCell, ha0 l (by omega), show k ≠ l by omega] at this
        subst hkl
        have hvw := h k
        simp only [readCell, if_true, Option.some.injEq] at hvw
        subst hvw
        have : a = b := ih ha.2 hb.2 fun i => by
          by_cases hi : k = i
          · subst hi; rw [ha0 k (le_refl k), hb0 k (le_refl k)]
          · have := h i; simpa [readCell, hi] using this
        rw [this]
  exact key ha.1 hb.1 h

/-! ### Cells held -/

/-- A cell of a run that is held. -/
theorem holds_read {s : State} {i : CellIdx} {vs : List Nat} (h : holds s i vs) {j v : Nat} (hj : vs[j]? = some v) :
    readCell s.cells (i.toNat + j) = some v := h.2 j v hj

/-- The value of a cell of a run that is held. -/
theorem holds_value {s : State} {i : CellIdx} {vs : List Nat} (h : holds s i vs) {j v : Nat} (hj : vs[j]? = some v) :
    s.value (i.toNat + j) = v := by
  rw [State.value, h.2 j v hj]; rfl

/-- A run that was just written is held. -/
theorem holds_write (s : State) (i : CellIdx) (vs : List Nat) (h : i.toNat + vs.length ≤ 256) :
    holds (s.write i.toNat vs) i vs :=
  ⟨h, fun _ _ hj => readCell_writeCells_inside s.cells i.toNat vs hj⟩

end Sys2Proof.Machine
end

