-- ==== Sys2Proof/Laws/Command.lean ====
section
/-! SUPPORT. What `command`, the frame every meaning runs in, can do: each check as a condition on cells
(60_exceptions.md R333, R334), the fault taken (R335), and that the meaning of every well-formed instruction is that
frame over the operands the rules list. -/

namespace Sys2Proof.Machine

/-! ### The cells of an operand -/

theorem mem_numberCells {c : Nat × CellKind} {i : Nat} {ks : List CellKind} :
    c ∈ numberCells i ks ↔ ∃ j, c.1 = i + j ∧ ks[j]? = some c.2 := by
  induction ks generalizing i with
  | nil => simp [numberCells]
  | cons k ks ih =>
    simp only [numberCells, List.mem_cons, ih]
    constructor
    · rintro (rfl | ⟨j, h1, h2⟩)
      · exact ⟨0, rfl, rfl⟩
      · exact ⟨j + 1, by omega, by simpa using h2⟩
    · rintro ⟨j, h1, h2⟩
      cases j with
      | zero => left; ext1 <;> simp_all
      | succ j => exact .inr ⟨j, by omega, by simpa using h2⟩

/-- The kinds of `count` copies, by remainder. -/
theorem flatten_replicate_getElem? {ks : List CellKind} {n j : Nat} :
    (List.replicate n ks).flatten[j]? = if j < n * ks.length then ks[j % ks.length]? else none := by
  induction n generalizing j with
  | zero => simp
  | succ n ih =>
    rw [List.replicate_succ, List.flatten_cons]
    by_cases hj : j < ks.length
    · have : j < (n + 1) * ks.length := by rw [Nat.succ_mul]; omega
      rw [List.getElem?_append_left hj, if_pos this, Nat.mod_eq_of_lt hj]
    · rw [List.getElem?_append_right (by omega), ih]
      have e : (j - ks.length < n * ks.length) ↔ (j < (n + 1) * ks.length) := by rw [Nat.succ_mul]; omega
      simp only [e]
      by_cases hl : ks.length = 0
      · simp [hl]
      · rw [← Nat.mod_eq_sub_mod (by omega)]

/-- The cells of a source operand are its footprint, each with its kind (10_state.md R12). -/
theorem mem_sourceCells {o : Source} {c : Nat × CellKind} :
    c ∈ sourceCells o ↔ ∃ j < sourceWidth o, c.1 = o.start + j ∧ o.kindAt j = some c.2 := by
  simp only [sourceCells, mem_numberCells, flatten_replicate_getElem?, sourceWidth, Source.kindAt]
  constructor
  · rintro ⟨j, h1, h2⟩
    split at h2
    · exact ⟨j, by assumption, h1, h2⟩
    · simp at h2
  · rintro ⟨j, h0, h1, h2⟩
    exact ⟨j, h1, by rw [if_pos h0, h2]⟩

theorem kindAt_isSome {o : Source} {j : Nat} (h : j < sourceWidth o) : ∃ k, o.kindAt j = some k := by
  have : 0 < o.kinds.length := by
    rcases Nat.eq_zero_or_pos o.kinds.length with h0 | h0
    · simp [sourceWidth, h0] at h
    · exact h0
  exact ⟨_, List.getElem?_eq_getElem (Nat.mod_lt j this)⟩

theorem any_unwritten {o : Source} {st : Store} :
    (sourceCells o).any (cellUnwritten st) = true ↔ o.unwritten st := by
  simp only [List.any_eq_true, cellUnwritten, Option.isNone_iff_eq_none, mem_sourceCells, Source.unwritten]
  constructor
  · rintro ⟨c, ⟨j, h0, h1, _⟩, h3⟩
    exact ⟨j, h0, h1 ▸ h3⟩
  · rintro ⟨j, h0, h1⟩
    obtain ⟨k, hk⟩ := kindAt_isSome h0
    exact ⟨(o.start + j, k), ⟨j, h0, rfl, hk⟩, h1⟩

theorem any_badFlag {o : Source} {st : Store} : (sourceCells o).any (cellBadFlag st) = true ↔ o.badFlag st := by
  simp only [List.any_eq_true, mem_sourceCells, Source.badFlag]
  constructor
  · rintro ⟨⟨c, k⟩, ⟨j, h0, h1, h2⟩, h3⟩
    simp only [cellBadFlag] at h1 h2 h3
    split at h3
    · rename_i v hv
      exact ⟨j, h0, v, h2, h1 ▸ hv, by simpa using h3⟩
    · simp at h3
  · rintro ⟨j, h0, v, h1, h2, h3⟩
    exact ⟨(o.start + j, .flag), ⟨j, h0, rfl, h1⟩, by simp [cellBadFlag, h2, h3]⟩

theorem any_unreduced {o : Source} {st : Store} :
    (sourceCells o).any (cellUnreduced st) = true ↔ o.unreduced st := by
  simp only [List.any_eq_true, mem_sourceCells, Source.unreduced]
  constructor
  · rintro ⟨⟨c, k⟩, ⟨j, h0, h1, h2⟩, h3⟩
    simp only [cellUnreduced] at h1 h2 h3
    split at h3
    · rename_i m v hv
      exact ⟨j, h0, m, v, h2, h1 ▸ hv, by simpa using h3⟩
    · simp at h3
  · rintro ⟨j, h0, m, v, h1, h2, h3⟩
    exact ⟨(o.start + j, .modulus m), ⟨j, h0, rfl, h1⟩, by simp [cellUnreduced, h2, h3]⟩

/-! ### The fault of a command -/

/-- Every check in the order of the codes (60_exceptions.md R335). -/
theorem violation_eq (srcs : List Source) (dsts : List Dest) (st : Store) :
    violation srcs dsts st =
      open Classical in
      if (∃ o ∈ srcs, o.passesEnd) ∨ ∃ d ∈ dsts, 256 < d.start + d.width then some .range
      else if ∃ o ∈ srcs, o.unwritten st then some .unwritten
      else if ∃ o ∈ srcs, o.badFlag st then some .badFlag
      else if ∃ o ∈ srcs, o.unreduced st then some .unreduced
      else none := by
  have h1 : ((srcs.any fun o => outOfRange o.start (sourceWidth o)) || dsts.any fun d => outOfRange d.start d.width)
      = true ↔ (∃ o ∈ srcs, o.passesEnd) ∨ ∃ d ∈ dsts, 256 < d.start + d.width := by
    simp [outOfRange, Source.passesEnd]
  have h2 : (srcs.any fun o => (sourceCells o).any (cellUnwritten st)) = true ↔ ∃ o ∈ srcs, o.unwritten st := by
    simp only [List.any_eq_true (l := srcs), any_unwritten]
  have h3 : (srcs.any fun o => (sourceCells o).any (cellBadFlag st)) = true ↔ ∃ o ∈ srcs, o.badFlag st := by
    simp only [List.any_eq_true (l := srcs), any_badFlag]
  have h4 : (srcs.any fun o => (sourceCells o).any (cellUnreduced st)) = true ↔ ∃ o ∈ srcs, o.unreduced st := by
    simp only [List.any_eq_true (l := srcs), any_unreduced]
  classical
  unfold violation
  refine ite_congr (propext h1) (fun _ => rfl) fun _ => ite_congr (propext h2) (fun _ => rfl) fun _ =>
    ite_congr (propext h3) (fun _ => rfl) fun _ => ite_congr (propext h4) (fun _ => rfl) fun _ => rfl

/-- A command runs its effect when no check fails. -/
theorem violation_eq_none_iff {srcs : List Source} {dsts : List Dest} {st : Store} :
    violation srcs dsts st = none ↔
      (∀ o ∈ srcs, ¬ o.passesEnd ∧ ¬ o.unwritten st ∧ ¬ o.badFlag st ∧ ¬ o.unreduced st) ∧
      ∀ d ∈ dsts, d.start + d.width ≤ 256 := by
  rw [violation_eq]
  constructor
  · intro h
    split at h; · simp at h
    split at h; · simp at h
    split at h; · simp at h
    split at h; · simp at h
    rename_i h1 h2 h3 h4
    push Not at h1 h2 h3 h4
    exact ⟨fun o ho => ⟨h1.1 o ho, h2 o ho, h3 o ho, h4 o ho⟩, h1.2⟩
  · rintro ⟨h1, h2⟩
    rw [if_neg, if_neg, if_neg, if_neg]
    · rintro ⟨o, ho, h⟩; exact (h1 o ho).2.2.2 h
    · rintro ⟨o, ho, h⟩; exact (h1 o ho).2.2.1 h
    · rintro ⟨o, ho, h⟩; exact (h1 o ho).2.1 h
    · rintro (⟨o, ho, h⟩ | ⟨d, hd, h⟩)
      · exact (h1 o ho).1 h
      · have := h2 d hd; omega

theorem violation_ne_illegal {srcs : List Source} {dsts : List Dest} {st : Store} :
    violation srcs dsts st ≠ some .illegal := by
  rw [violation_eq]; split <;> (try split) <;> (try split) <;> (try split) <;> simp

/-! ### What `command` can do -/

/-- While `FLT = 1` a command does nothing (60_exceptions.md R337). -/
theorem command_refused {srcs : List Source} {dsts : List Dest} {s : State} {e : Result} (h : s.flt = true) :
    command srcs dsts s e = .next s := by
  simp [command, h]

/-- A failed check is the fault of lowest code and nothing else (R335, R336). -/
theorem command_fault {srcs : List Source} {dsts : List Dest} {s : State} {e : Result} {c : FaultCode}
    (h : s.flt = false) (hv : violation srcs dsts s.cells = some c) :
    command srcs dsts s e = .next (takeFault c s) := by
  simp [command, h, hv]

/-- With every check passed a command is its effect. -/
theorem command_run {srcs : List Source} {dsts : List Dest} {s : State} {e : Result}
    (h : s.flt = false) (hv : violation srcs dsts s.cells = none) : command srcs dsts s e = e := by
  simp [command, h, hv]

/-- All a command can answer. -/
theorem command_cases {srcs : List Source} {dsts : List Dest} {s : State} {e r : Result}
    (h : command srcs dsts s e = r) :
    (s.flt = true ∧ r = .next s) ∨
    (s.flt = false ∧ ∃ c, violation srcs dsts s.cells = some c ∧ r = .next (takeFault c s)) ∨
    (s.flt = false ∧ violation srcs dsts s.cells = none ∧ r = e) := by
  subst h
  cases hf : s.flt
  · cases hv : violation srcs dsts s.cells with
    | none => exact .inr (.inr ⟨rfl, rfl, command_run hf hv⟩)
    | some c => exact .inr (.inl ⟨rfl, c, rfl, command_fault hf hv⟩)
  · exact .inl ⟨rfl, command_refused hf⟩

/-! ### Every meaning is a command -/

/-- The destination of a command as its range check sees it. -/
def destOf (i : Instr) : List Dest := (instrResult i).toList.map fun o => ⟨o.start, sourceWidth o⟩

/-- The meaning of a well-formed instruction is `command` over the operands the rules list. -/
theorem exec_command (i : Instr) (hi : i.wellFormed = true) :
    ∃ e : State → Result, ∀ s, exec i s = command (instrSources i) (destOf i) s (e s) := by
  cases i
  case pdec rd ra sign =>
    have h : sign.toNat ≤ 1 := by simpa [Instr.wellFormed, signSelectorOk] using hi
    exact ⟨_, fun s => by simp only [exec, execPdec, pdecCommand, h, if_true]; rfl⟩
  all_goals exact ⟨_, fun s => rfl⟩

/-- A command whose operands no legal word carries is charged with `ILLEGAL` (60_exceptions.md R333). -/
theorem exec_illegal {i : Instr} (hi : i.wellFormed = false) {s : State} (hs : s.flt = false) :
    exec i s = .next (takeFault .illegal s) := by
  cases i
  case pdec rd ra sign =>
    have h : ¬ sign.toNat ≤ 1 := by simpa [Instr.wellFormed, signSelectorOk] using hi
    have hv : violation [] [] s.cells = none := rfl
    simp [exec, execPdec, pdecCommand, h, command_run hs hv]
  all_goals simp [Instr.wellFormed] at hi

/-- While `FLT = 1` no meaning does anything. -/
theorem exec_refused (i : Instr) {s : State} (hs : s.flt = true) : exec i s = .next s := by
  by_cases hi : i.wellFormed = true
  · obtain ⟨e, he⟩ := exec_command i hi
    rw [he, command_refused hs]
  · cases i
    case pdec rd ra sign =>
      have h : ¬ sign.toNat ≤ 1 := by simpa [Instr.wellFormed, signSelectorOk] using hi
      simp [exec, execPdec, pdecCommand, h, command_refused hs]
    all_goals simp [Instr.wellFormed] at hi

end Sys2Proof.Machine
end

