-- ==== Sys2Proof/Laws/Config.lean ====
section
/-! SUPPORT. What every well-formed record gives at once (00_scope.md R6, R7): the moduli are odd primes, `q ≥ 7`, and
every constant a command writes is below `2^W`. -/

namespace Sys2Proof

variable {p : Params}

theorem PrimeParams.WellFormed.three_le {w : Nat} {f : PrimeParams} (h : f.WellFormed w) : 3 ≤ f.modulus := by
  have h2 := h.prime.two_le
  have h3 := h.odd
  omega

theorem Params.WellFormed.q_prime (h : p.WellFormed) : Nat.Prime p.q := h.fq.prime
theorem Params.WellFormed.r_prime (h : p.WellFormed) : Nat.Prime p.r := h.fr.prime
theorem Params.WellFormed.three_le_r (h : p.WellFormed) : 3 ≤ p.r := h.fr.three_le

/-- `q ≡ 1 (mod 3)` and odd (R7 WF1, WF5). -/
theorem Params.WellFormed.seven_le_q (h : p.WellFormed) : 7 ≤ p.q := by
  have h1 := h.fq.three_le
  have h2 := h.fq.odd
  have h3 := h.q_mod_three
  simp only [Params.q] at *
  by_contra hlt
  interval_cases hq : p.fq.modulus <;> omega

theorem Params.WellFormed.q_lt (h : p.WellFormed) : p.q < 2 ^ p.width := h.fq.lt_width
theorem Params.WellFormed.r_lt (h : p.WellFormed) : p.r < 2 ^ p.width := h.fr.lt_width

/-- `W = 64 · LIMBS` (R6). -/
theorem Params.WellFormed.width_eq (h : p.WellFormed) : p.width = 64 * p.limbs := by
  have := h.width_limbs
  unfold Params.limbs
  omega

theorem Params.WellFormed.sixteen_le (h : p.WellFormed) : 16 ≤ p.width := by
  have := h.width_pos
  have := h.width_limbs
  omega

namespace Config

/-- The record the machine runs on. -/
theorem q_prime : Nat.Prime params.q := params_wellFormed.q_prime
theorem r_prime : Nat.Prime params.r := params_wellFormed.r_prime
theorem seven_le_q : 7 ≤ params.q := params_wellFormed.seven_le_q
theorem three_le_r : 3 ≤ params.r := params_wellFormed.three_le_r
theorem q_pos : 0 < params.q := by have := seven_le_q; omega
theorem r_pos : 0 < params.r := by have := three_le_r; omega
theorem one_lt_q : 1 < params.q := by have := seven_le_q; omega
theorem one_lt_r : 1 < params.r := by have := three_le_r; omega
theorem q_lt : params.q < 2 ^ params.width := params_wellFormed.q_lt
theorem r_lt : params.r < 2 ^ params.width := params_wellFormed.r_lt

end Config

end Sys2Proof
end

