-- ==== Sys2Proof/Laws/Decode.lean ====
section
/-! SUPPORT. The command word and its fields (30_encoding.md R50): packing and unpacking are inverse to each other, and
what a decoded word says of its fields. -/

namespace Sys2Proof

/-- The fields of a packed word. -/
theorem unpack_pack (f : Fields) : unpackWord (packWord f) = f := by
  obtain ⟨op, ty, z0, rd, ra, rb, z1, imm⟩ := f
  simp only [unpackWord, packWord, Fields.mk.injEq]
  refine ⟨?_, ?_, ?_, ?_, ?_, ?_, ?_, ?_⟩ <;>
  · apply BitVec.eq_of_getLsbD_eq
    intro i hi
    simp only [BitVec.getLsbD_extractLsb', BitVec.getLsbD_append, hi, decide_true, Bool.true_and]
    repeat' split
    all_goals first | omega | (congr 1; omega)

/-- The word of the fields of a word. -/
theorem pack_unpack (w : CmdWord) : packWord (unpackWord w) = w := by
  apply BitVec.eq_of_getLsbD_eq
  intro i hi
  simp only [unpackWord, packWord, BitVec.getLsbD_extractLsb', BitVec.getLsbD_append]
  repeat' split
  all_goals rw [decide_eq_true (by omega), Bool.true_and]; congr 1; omega

/-- Two words with the same fields are equal. -/
theorem unpack_injective {v w : CmdWord} (h : unpackWord v = unpackWord w) : v = w := by
  rw [← pack_unpack v, ← pack_unpack w, h]

/-- Decoding the word of some fields is decoding the fields. -/
theorem decode_pack (f : Fields) : decode (packWord f) = decodeFields f := by rw [decode, unpack_pack]

/-- A decoded word has a row, and its reserved fields are 0 (R55). -/
theorem decodeFields_ok {f : Fields} {i : Instr} (h : decodeFields f = .ok i) :
    ∃ row ∈ opcodeTable, row.op = f.op ∧ row.ty = f.ty ∧ f.z0 = 0 ∧ f.z1 = 0 ∧ row.shape.read f = .ok i := by
  unfold decodeFields at h
  split at h
  · simp at h
  · rename_i row hrow
    split at h
    · rename_i hz
      have hp := List.find?_some hrow
      simp only [Bool.and_eq_true, beq_iff_eq] at hp
      exact ⟨row, List.mem_of_find?_eq_some hrow, hp.1, hp.2, hz.1, hz.2, h⟩
    · simp at h

end Sys2Proof
end

