-- ==== Sys2Proof/Laws/Operands.lean ====
section
/-! SUPPORT. Operands (10_state.md R12): each element type of the machine reads and writes the layout the statements
name, and an operand that is held and valid passes every check; then, for each shape of a command, once, what it
answers on such operands. -/

namespace Sys2Proof.Machine

/-- An element type of the machine has the given layout. -/
structure HasForm {α : Type} (t : ElemTy α) (A : Form α) : Prop where
  width : t.kinds.length = A.width
  pos : 0 < A.width
  cells : ∀ a, t.cells a = A.cells a
  length : ∀ a, (A.cells a).length = A.width
  read : ∀ (get : Nat → Nat) i a, (∀ j v, (A.cells a)[j]? = some v → get (i + j) = v) → t.read get i = a
  admits : ∀ a, A.valid a → ∀ (j : Nat) (k : CellKind) (v : Nat), t.kinds[j]? = some k → (A.cells a)[j]? = some v →
    k.Admits v
  loaded : ∀ (get : Nat → Nat) i (j : Nat), j < A.width → (A.cells (t.read get i))[j]? = some (get (i + j))
  valid : ∀ a, (∀ (j : Nat) (k : CellKind) (v : Nat), t.kinds[j]? = some k → (A.cells a)[j]? = some v → k.Admits v) →
    A.valid a

theorem rawElem_form : HasForm rawElem rawForm where
  width := rfl
  pos := Nat.one_pos
  cells _ := rfl
  length _ := rfl
  read get i a h := h 0 a rfl
  admits a _ j k v hk _ := by
    rcases j with _ | j
    · simp only [rawElem, List.getElem?_cons_zero, Option.some.injEq] at hk; subst hk; exact trivial
    · simp [rawElem] at hk
  loaded get i j hj := by
    obtain rfl : j = 0 := Nat.lt_one_iff.mp hj
    rfl
  valid _ _ := trivial

theorem primeElem_form (m : Nat) : HasForm (primeElem m) (primeForm m) where
  width := rfl
  pos := Nat.one_pos
  cells _ := rfl
  length _ := rfl
  read get i a h := h 0 a rfl
  admits a ha j k v hk hv := by
    rcases j with _ | j
    · simp only [primeElem, primeForm, List.getElem?_cons_zero, Option.some.injEq] at hk hv
      subst hk hv; exact ha
    · simp [primeElem] at hk
  loaded get i j hj := by
    obtain rfl : j = 0 := Nat.lt_one_iff.mp hj
    rfl
  valid _ h := h 0 _ _ rfl rfl

/-- A layout of cells all read as `Fq` elements. -/
theorem admits_replicate {n m : Nat} {cs : List Nat} (h : ∀ v ∈ cs, v < m) {j : Nat} {k : CellKind} {v : Nat}
    (hk : (List.replicate n (CellKind.modulus m))[j]? = some k) (hv : cs[j]? = some v) : k.Admits v := by
  have hk' := List.mem_of_getElem? hk
  rw [List.eq_of_mem_replicate hk']
  exact h v (List.mem_of_getElem? hv)

theorem fq2Elem_form : HasForm (fq2Elem Config.params) fq2Form where
  width := rfl
  pos := by decide
  cells _ := rfl
  length _ := rfl
  read get i a h := by
    have h0 := h 0 _ rfl; have h1 := h 1 _ rfl
    rw [Nat.add_zero] at h0
    simp only [fq2Elem, h0, h1]
  admits a ha j k v hk hv := by
    refine admits_replicate (n := 2) (m := Config.params.q) (fun v hv => ?_) hk hv
    simp only [fq2Form, List.mem_cons, List.not_mem_nil, or_false] at hv
    obtain ⟨h0, h1⟩ := ha
    rcases hv with rfl | rfl <;> assumption
  loaded get i j hj := by
    have hj : j < 2 := hj
    interval_cases j <;> rfl
  valid a h := by
    have h0 := h 0 _ _ rfl rfl
    have h1 := h 1 _ _ rfl rfl
    exact ⟨h0, h1⟩

theorem fq6Elem_form : HasForm (fq6Elem Config.params) fq6Form where
  width := rfl
  pos := by decide
  cells _ := rfl
  length _ := rfl
  read get i a h := by
    have h0 := h 0 _ rfl; have h1 := h 1 _ rfl; have h2 := h 2 _ rfl
    have h3 := h 3 _ rfl; have h4 := h 4 _ rfl; have h5 := h 5 _ rfl
    rw [Nat.add_zero] at h0
    simp only [fq6Elem, h0, h1, h2, h3, h4, h5]
  admits a ha j k v hk hv := by
    refine admits_replicate (n := 6) (m := Config.params.q) (fun v hv => ?_) hk hv
    simp only [fq6Form, List.mem_cons, List.not_mem_nil, or_false] at hv
    obtain ⟨⟨h0, h1⟩, ⟨h2, h3⟩, ⟨h4, h5⟩⟩ := ha
    rcases hv with rfl | rfl | rfl | rfl | rfl | rfl <;> assumption
  loaded get i j hj := by
    have hj : j < 6 := hj
    interval_cases j <;> rfl
  valid a h := by
    have h0 := h 0 _ _ rfl rfl
    have h1 := h 1 _ _ rfl rfl
    have h2 := h 2 _ _ rfl rfl
    have h3 := h 3 _ _ rfl rfl
    have h4 := h 4 _ _ rfl rfl
    have h5 := h 5 _ _ rfl rfl
    exact ⟨⟨h0, h1⟩, ⟨h2, h3⟩, ⟨h4, h5⟩⟩

theorem fq12Elem_form : HasForm (fq12Elem Config.params) fq12Form where
  width := rfl
  pos := by decide
  cells _ := rfl
  length _ := rfl
  read get i a h := by
    have h0 := h 0 _ rfl; have h1 := h 1 _ rfl; have h2 := h 2 _ rfl
    have h3 := h 3 _ rfl; have h4 := h 4 _ rfl; have h5 := h 5 _ rfl
    have h6 := h 6 _ rfl; have h7 := h 7 _ rfl; have h8 := h 8 _ rfl
    have h9 := h 9 _ rfl; have h10 := h 10 _ rfl; have h11 := h 11 _ rfl
    rw [Nat.add_zero] at h0
    simp only [fq12Elem, fq6Elem, Nat.add_assoc, Nat.reduceAdd, h0, h1, h2, h3, h4, h5, h6, h7, h8, h9, h10, h11]
  admits a ha j k v hk hv := by
    refine admits_replicate (n := 12) (m := Config.params.q) (fun v hv => ?_) hk hv
    simp only [fq12Form, List.mem_cons, List.not_mem_nil, or_false] at hv
    obtain ⟨⟨⟨h0, h1⟩, ⟨h2, h3⟩, ⟨h4, h5⟩⟩, ⟨⟨h6, h7⟩, ⟨h8, h9⟩, ⟨h10, h11⟩⟩⟩ := ha
    rcases hv with rfl | rfl | rfl | rfl | rfl | rfl | rfl | rfl | rfl | rfl | rfl | rfl <;> assumption
  loaded get i j hj := by
    have hj : j < 12 := hj
    interval_cases j <;> rfl
  valid a h := by
    have h0 := h 0 _ _ rfl rfl
    have h1 := h 1 _ _ rfl rfl
    have h2 := h 2 _ _ rfl rfl
    have h3 := h 3 _ _ rfl rfl
    have h4 := h 4 _ _ rfl rfl
    have h5 := h 5 _ _ rfl rfl
    have h6 := h 6 _ _ rfl rfl
    have h7 := h 7 _ _ rfl rfl
    have h8 := h 8 _ _ rfl rfl
    have h9 := h 9 _ _ rfl rfl
    have h10 := h 10 _ _ rfl rfl
    have h11 := h 11 _ _ rfl rfl
    exact ⟨⟨⟨h0, h1⟩, ⟨h2, h3⟩, ⟨h4, h5⟩⟩, ⟨⟨h6, h7⟩, ⟨h8, h9⟩, ⟨h10, h11⟩⟩⟩

theorem affElem_form : HasForm (affElem Config.params) affForm where
  width := rfl
  pos := by decide
  cells _ := rfl
  length _ := rfl
  read get i a h := by
    have h0 := h 0 _ rfl; have h1 := h 1 _ rfl; have h2 := h 2 _ rfl
    rw [Nat.add_zero] at h0
    simp only [affElem, h0, h1, h2]
  admits a ha j k v hk hv := by
    obtain ⟨h0, h1, h2⟩ := ha
    rcases j with _ | _ | _ | j <;>
      simp only [affElem, affForm, List.getElem?_cons_zero, List.getElem?_cons_succ, List.getElem?_nil,
        Option.some.injEq, reduceCtorEq] at hk hv
    all_goals subst hk hv; assumption
  loaded get i j hj := by
    have hj : j < 3 := hj
    interval_cases j <;> rfl
  valid a h := by
    have h0 := h 0 _ _ rfl rfl
    have h1 := h 1 _ _ rfl rfl
    have h2 := h 2 _ _ rfl rfl
    exact ⟨h0, h1, h2⟩

theorem jacElem_form : HasForm (jacElem Config.params) jacForm where
  width := rfl
  pos := by decide
  cells _ := rfl
  length _ := rfl
  read get i a h := by
    have h0 := h 0 _ rfl; have h1 := h 1 _ rfl; have h2 := h 2 _ rfl
    rw [Nat.add_zero] at h0
    simp only [jacElem, h0, h1, h2]
  admits a ha j k v hk hv := by
    refine admits_replicate (n := 3) (m := Config.params.q) (fun v hv => ?_) hk hv
    simp only [jacForm, List.mem_cons, List.not_mem_nil, or_false] at hv
    obtain ⟨h0, h1, h2⟩ := ha
    rcases hv with rfl | rfl | rfl <;> assumption
  loaded get i j hj := by
    have hj : j < 3 := hj
    interval_cases j <;> rfl
  valid a h := by
    have h0 := h 0 _ _ rfl rfl
    have h1 := h 1 _ _ rfl rfl
    have h2 := h 2 _ _ rfl rfl
    exact ⟨h0, h1, h2⟩

theorem sparsePairElem_form : HasForm (sparsePairElem Config.params) pairForm where
  width := rfl
  pos := by decide
  cells _ := rfl
  length _ := rfl
  read get i a h := by
    have h0 := h 0 _ rfl; have h1 := h 1 _ rfl; have h2 := h 2 _ rfl; have h3 := h 3 _ rfl
    rw [Nat.add_zero] at h0
    simp only [sparsePairElem, h0, h1, h2, h3]
  admits a ha j k v hk hv := by
    refine admits_replicate (n := 4) (m := Config.params.q) (fun v hv => ?_) hk hv
    simp only [pairForm, List.mem_cons, List.not_mem_nil, or_false] at hv
    obtain ⟨⟨h0, h1⟩, ⟨h2, h3⟩⟩ := ha
    rcases hv with rfl | rfl | rfl | rfl <;> assumption
  loaded get i j hj := by
    have hj : j < 4 := hj
    interval_cases j <;> rfl
  valid a h := by
    have h0 := h 0 _ _ rfl rfl
    have h1 := h 1 _ _ rfl rfl
    have h2 := h 2 _ _ rfl rfl
    have h3 := h 3 _ _ rfl rfl
    exact ⟨⟨h0, h1⟩, ⟨h2, h3⟩⟩

theorem sparseTripleElem_form : HasForm (sparseTripleElem Config.params) tripleForm where
  width := rfl
  pos := by decide
  cells _ := rfl
  length _ := rfl
  read get i a h := by
    have h0 := h 0 _ rfl; have h1 := h 1 _ rfl; have h2 := h 2 _ rfl
    have h3 := h 3 _ rfl; have h4 := h 4 _ rfl; have h5 := h 5 _ rfl
    rw [Nat.add_zero] at h0
    simp only [sparseTripleElem, h0, h1, h2, h3, h4, h5]
  admits a ha j k v hk hv := by
    refine admits_replicate (n := 6) (m := Config.params.q) (fun v hv => ?_) hk hv
    simp only [tripleForm, List.mem_cons, List.not_mem_nil, or_false] at hv
    obtain ⟨⟨h0, h1⟩, ⟨h2, h3⟩, ⟨h4, h5⟩⟩ := ha
    rcases hv with rfl | rfl | rfl | rfl | rfl | rfl <;> assumption
  loaded get i j hj := by
    have hj : j < 6 := hj
    interval_cases j <;> rfl
  valid a h := by
    have h0 := h 0 _ _ rfl rfl
    have h1 := h 1 _ _ rfl rfl
    have h2 := h 2 _ _ rfl rfl
    have h3 := h 3 _ _ rfl rfl
    have h4 := h 4 _ _ rfl rfl
    have h5 := h 5 _ _ rfl rfl
    exact ⟨⟨h0, h1⟩, ⟨h2, h3⟩, ⟨h4, h5⟩⟩

/-! ### Held operands -/

section
variable {α β γ : Type} {ta : ElemTy α} {tb : ElemTy β} {td : ElemTy γ}
variable {A : Form α} {B : Form β} {C : Form γ}

theorem length_flatMap_cells (hA : HasForm ta A) (as : List α) : (as.flatMap A.cells).length = as.length * A.width := by
  induction as with
  | nil => simp
  | cons a as ih => rw [List.flatMap_cons, List.length_append, hA.length, ih, List.length_cons, Nat.succ_mul]; omega

/-- Cell `k` of element `j` of a vector. -/
theorem getElem?_flatMap_cells (hA : HasForm ta A) {as : List α} {j k : Nat} (hk : k < A.width) :
    (as.flatMap A.cells)[j * A.width + k]? = as[j]?.bind fun a => (A.cells a)[k]? := by
  induction as generalizing j with
  | nil => simp
  | cons a as ih =>
    rw [List.flatMap_cons]
    cases j with
    | zero => rw [List.getElem?_append_left (by rw [hA.length]; omega)]; simp
    | succ j =>
      rw [List.getElem?_append_right (by rw [hA.length, Nat.succ_mul]; omega), hA.length]
      rw [show (j + 1) * A.width + k - A.width = j * A.width + k by rw [Nat.succ_mul]; omega, ih]
      simp

/-- A held vector of valid elements passes every check of its source operand. -/
theorem vector_checks (hA : HasForm ta A) {s : State} {i : CellIdx} {as : List α} (hv : ∀ a ∈ as, A.valid a)
    (hh : holds s i (as.flatMap A.cells)) :
    let o := vectorSource ta i as.length
    ¬ o.passesEnd ∧ ¬ o.unwritten s.cells ∧ ¬ o.badFlag s.cells ∧ ¬ o.unreduced s.cells := by
  intro o
  have hw : sourceWidth o = as.length * A.width := by show as.length * ta.kinds.length = _; rw [hA.width]
  have hread : ∀ j < sourceWidth o, ∃ v k, readCell s.cells (o.start + j) = some v ∧ o.kindAt j = some k ∧
      k.Admits v := by
    intro j hj
    rw [hw] at hj
    have hpos := hA.pos
    have hmod : j % A.width < A.width := Nat.mod_lt j hpos
    have hdiv : j / A.width < as.length := Nat.div_lt_of_lt_mul (by rw [Nat.mul_comm]; exact hj)
    obtain ⟨v, hcv⟩ : ∃ v, (A.cells (as[j / A.width]'hdiv))[j % A.width]? = some v :=
      ⟨_, List.getElem?_eq_getElem (by rw [hA.length]; exact hmod)⟩
    obtain ⟨k, hk⟩ : ∃ k, ta.kinds[j % A.width]? = some k :=
      ⟨_, List.getElem?_eq_getElem (by rw [hA.width]; exact hmod)⟩
    refine ⟨v, k, ?_, ?_, hA.admits _ (hv _ (List.getElem_mem hdiv)) _ k v hk hcv⟩
    · apply hh.2
      have e : j / A.width * A.width + j % A.width = j := by rw [Nat.mul_comm]; exact Nat.div_add_mod j A.width
      have g := getElem?_flatMap_cells hA (as := as) (j := j / A.width) hmod
      rw [e] at g
      rw [g, List.getElem?_eq_getElem hdiv, Option.bind_some, hcv]
    · show ta.kinds[j % ta.kinds.length]? = some k
      rw [hA.width, hk]
  refine ⟨?_, ?_, ?_, ?_⟩
  · have h1 := hh.1
    rw [length_flatMap_cells hA] at h1
    unfold Source.passesEnd
    rw [hw]
    show ¬ 256 < i.toNat + _
    omega
  · rintro ⟨j, hj, hn⟩
    obtain ⟨v, k, h1, _, _⟩ := hread j hj
    rw [hn] at h1; simp at h1
  · rintro ⟨j, hj, v, hf, hr, h1⟩
    obtain ⟨v', k, h2, h3, h4⟩ := hread j hj
    rw [hr] at h2; rw [hf] at h3
    simp only [Option.some.injEq] at h2 h3
    subst h2 h3
    exact absurd h4 (by simpa [CellKind.Admits] using h1)
  · rintro ⟨j, hj, m, v, hf, hr, h1⟩
    obtain ⟨v', k, h2, h3, h4⟩ := hread j hj
    rw [hr] at h2; rw [hf] at h3
    simp only [Option.some.injEq] at h2 h3
    subst h2 h3
    exact absurd h4 (by simpa [CellKind.Admits] using h1)

/-- Loading a held vector gives it back. -/
theorem loadVector_held (hA : HasForm ta A) {s : State} {i : CellIdx} {as : List α}
    (hh : holds s i (as.flatMap A.cells)) : loadVector ta s i as.length = as := by
  apply List.ext_getElem?
  intro j
  unfold loadVector
  by_cases hj : j < as.length
  · rw [List.getElem?_map, List.getElem?_range hj, Option.map_some, List.getElem?_eq_getElem hj]
    congr 1
    refine hA.read _ _ _ fun k v hk => ?_
    have hkw : k < A.width := by
      have := (List.getElem?_eq_some_iff.mp hk).1
      rwa [hA.length] at this
    rw [Nat.add_assoc]
    refine holds_value hh ?_
    show (as.flatMap A.cells)[j * ta.kinds.length + k]? = some v
    rw [hA.width, getElem?_flatMap_cells hA hkw, List.getElem?_eq_getElem hj, Option.bind_some, hk]
  · rw [List.getElem?_eq_none (by simpa using hj), List.getElem?_eq_none (by omega)]

/-- A held valid element passes every check of its source operand. -/
theorem elem_checks (hA : HasForm ta A) {s : State} {i : CellIdx} {a : α} (hv : A.valid a)
    (hh : holds s i (A.cells a)) :
    let o := elemSource ta i
    ¬ o.passesEnd ∧ ¬ o.unwritten s.cells ∧ ¬ o.badFlag s.cells ∧ ¬ o.unreduced s.cells :=
  vector_checks hA (as := [a]) (by simpa using hv) (by simpa using hh)

/-- Every element of a source operand that passes its checks is valid. -/
theorem read_valid (hA : HasForm ta A) {s : State} {i : CellIdx} {n j : Nat} (hj : j < n)
    (h : ¬ (vectorSource ta i n).unwritten s.cells ∧ ¬ (vectorSource ta i n).badFlag s.cells ∧
      ¬ (vectorSource ta i n).unreduced s.cells) : A.valid (ta.read s.value (i.toNat + j * A.width)) := by
  obtain ⟨hu, hf, hr⟩ := h
  refine hA.valid _ fun l k v hk hv => ?_
  have hl : l < A.width := by
    have := (List.getElem?_eq_some_iff.mp hv).1
    rwa [hA.length] at this
  rw [hA.loaded _ _ _ hl, Option.some.injEq] at hv
  have hlt : j * A.width + l < sourceWidth (vectorSource ta i n) := by
    show _ < n * ta.kinds.length
    rw [hA.width]
    calc j * A.width + l < j * A.width + A.width := by omega
      _ = (j + 1) * A.width := by rw [Nat.succ_mul]
      _ ≤ n * A.width := Nat.mul_le_mul_right _ hj
  have hkind : (vectorSource ta i n).kindAt (j * A.width + l) = some k := by
    show ta.kinds[(j * A.width + l) % ta.kinds.length]? = some k
    rw [hA.width, Nat.mul_comm, Nat.mul_add_mod, Nat.mod_eq_of_lt hl, hk]
  obtain ⟨x, hx⟩ : ∃ x, readCell s.cells ((vectorSource ta i n).start + (j * A.width + l)) = some x := by
    rw [← Option.ne_none_iff_exists']
    exact fun hn => hu ⟨_, hlt, hn⟩
  have hvx : v = x := by
    rw [← hv, State.value, Nat.add_assoc]
    show (readCell s.cells ((vectorSource ta i n).start + (j * A.width + l))).getD 0 = x
    rw [hx]; rfl
  subst hvx
  cases k with
  | raw => exact trivial
  | modulus m =>
    by_contra hc
    exact hr ⟨_, hlt, m, v, hkind, hx, Nat.le_of_not_lt hc⟩
  | flag =>
    by_contra hc
    exact hf ⟨_, hlt, v, hkind, hx, Nat.lt_of_not_le hc⟩

theorem loadElem_valid (hA : HasForm ta A) {s : State} {i : CellIdx}
    (h : ¬ (elemSource ta i).passesEnd ∧ ¬ (elemSource ta i).unwritten s.cells ∧
      ¬ (elemSource ta i).badFlag s.cells ∧ ¬ (elemSource ta i).unreduced s.cells) : A.valid (loadElem ta s i) := by
  have := read_valid hA (n := 1) Nat.one_pos h.2
  rwa [Nat.zero_mul, Nat.add_zero] at this

theorem loadVector_valid (hA : HasForm ta A) {s : State} {i : CellIdx} {n : Nat}
    (h : ¬ (vectorSource ta i n).passesEnd ∧ ¬ (vectorSource ta i n).unwritten s.cells ∧
      ¬ (vectorSource ta i n).badFlag s.cells ∧ ¬ (vectorSource ta i n).unreduced s.cells) :
    ∀ a ∈ loadVector ta s i n, A.valid a := by
  intro a ha
  simp only [loadVector, List.mem_map, List.mem_range] at ha
  obtain ⟨j, hj, rfl⟩ := ha
  have := read_valid hA hj h.2
  rwa [← hA.width] at this

@[simp] theorem length_loadVector (s : State) (i : CellIdx) (n : Nat) : (loadVector ta s i n).length = n := by
  simp [loadVector]

/-- Loading a held element gives it back. -/
theorem loadElem_held (hA : HasForm ta A) {s : State} {i : CellIdx} {a : α} (hh : holds s i (A.cells a)) :
    loadElem ta s i = a :=
  hA.read _ _ _ fun _ _ hj => holds_value hh hj

theorem dest_checks (hC : HasForm td C) {rd : CellIdx} (h : fits rd C.width) :
    (elemDest td rd).start + (elemDest td rd).width ≤ 256 := by
  show rd.toNat + td.kinds.length ≤ 256
  rw [hC.width]; exact h

theorem storeElem_eq (hC : HasForm td C) (s : State) (rd : CellIdx) (c : γ) :
    storeElem td s rd c = s.write rd.toNat (C.cells c) := by
  rw [storeElem, hC.cells]

theorem storeOption_eq (hC : HasForm td C) (s : State) (rd : CellIdx) (o : Option γ) :
    storeOption td s rd o = optionState C s rd o := by
  cases o with
  | none => show (s.unwrite rd.toNat td.kinds.length).setN true = _; rw [hC.width]; rfl
  | some c => exact storeElem_eq hC _ rd c

/-! ### The shapes of a command on held operands -/

theorem constCommand_next (hC : HasForm td C) {s : State} {rd : CellIdx} (hs : s.flt = false)
    (hd : fits rd C.width) (c : γ) : constCommand td c rd s = .next (s.write rd.toNat (C.cells c)) := by
  rw [constCommand, command_run hs (violation_eq_none_iff.mpr
    ⟨by simp, by simpa using dest_checks hC hd⟩), storeElem_eq hC]

theorem unaryCommand_next (hA : HasForm ta A) (hC : HasForm td C) (f : α → γ) {s : State} {rd ra : CellIdx} {a : α}
    (hs : s.flt = false) (ha : A.valid a) (h1 : holds s ra (A.cells a)) (hd : fits rd C.width) :
    unaryCommand ta td f rd ra s = .next (s.write rd.toNat (C.cells (f a))) := by
  rw [unaryCommand, command_run hs (violation_eq_none_iff.mpr
    ⟨by simpa using elem_checks hA ha h1, by simpa using dest_checks hC hd⟩), loadElem_held hA h1, storeElem_eq hC]

theorem binaryCommand_next (hA : HasForm ta A) (hB : HasForm tb B) (hC : HasForm td C) (f : α → β → γ) {s : State}
    {rd ra rb : CellIdx} {a : α} {b : β} (hs : s.flt = false) (ha : A.valid a) (hb : B.valid b)
    (h1 : holds s ra (A.cells a)) (h2 : holds s rb (B.cells b)) (hd : fits rd C.width) :
    binaryCommand ta tb td f rd ra rb s = .next (s.write rd.toNat (C.cells (f a b))) := by
  rw [binaryCommand, command_run hs (violation_eq_none_iff.mpr
    ⟨by simpa using ⟨elem_checks hA ha h1, elem_checks hB hb h2⟩, by simpa using dest_checks hC hd⟩),
    loadElem_held hA h1, loadElem_held hB h2, storeElem_eq hC]

theorem partialUnaryCommand_next (hA : HasForm ta A) (hC : HasForm td C) (f : α → Option γ) {s : State}
    {rd ra : CellIdx} {a : α} (hs : s.flt = false) (ha : A.valid a) (h1 : holds s ra (A.cells a))
    (hd : fits rd C.width) : partialUnaryCommand ta td f rd ra s = .next (optionState C s rd (f a)) := by
  rw [partialUnaryCommand, command_run hs (violation_eq_none_iff.mpr
    ⟨by simpa using elem_checks hA ha h1, by simpa using dest_checks hC hd⟩), loadElem_held hA h1, storeOption_eq hC]

theorem partialBinaryCommand_next (hA : HasForm ta A) (hB : HasForm tb B) (hC : HasForm td C)
    (f : α → β → Option γ) {s : State} {rd ra rb : CellIdx} {a : α} {b : β} (hs : s.flt = false) (ha : A.valid a)
    (hb : B.valid b) (h1 : holds s ra (A.cells a)) (h2 : holds s rb (B.cells b)) (hd : fits rd C.width) :
    partialBinaryCommand ta tb td f rd ra rb s = .next (optionState C s rd (f a b)) := by
  rw [partialBinaryCommand, command_run hs (violation_eq_none_iff.mpr
    ⟨by simpa using ⟨elem_checks hA ha h1, elem_checks hB hb h2⟩, by simpa using dest_checks hC hd⟩),
    loadElem_held hA h1, loadElem_held hB h2, storeOption_eq hC]

theorem testCommand_next (hA : HasForm ta A) (f : α → Bool) {s : State} {ra : CellIdx} {a : α} (hs : s.flt = false)
    (ha : A.valid a) (h1 : holds s ra (A.cells a)) : testCommand ta f ra s = .next (s.setT (f a)) := by
  rw [testCommand, command_run hs (violation_eq_none_iff.mpr ⟨by simpa using elem_checks hA ha h1, by simp⟩),
    loadElem_held hA h1]

theorem compareCommand_next (hA : HasForm ta A) (hB : HasForm tb B) (f : α → β → Bool) {s : State}
    {ra rb : CellIdx} {a : α} {b : β} (hs : s.flt = false) (ha : A.valid a) (hb : B.valid b)
    (h1 : holds s ra (A.cells a)) (h2 : holds s rb (B.cells b)) :
    compareCommand ta tb f ra rb s = .next (s.setT (f a b)) := by
  rw [compareCommand, command_run hs (violation_eq_none_iff.mpr
    ⟨by simpa using ⟨elem_checks hA ha h1, elem_checks hB hb h2⟩, by simp⟩), loadElem_held hA h1, loadElem_held hB h2]

theorem sopCommand_next (hA : HasForm ta A) (zero : α) (add mul : α → α → α) {s : State} {rd ra rb : CellIdx}
    {n : Imm} {as bs : List α} (hs : s.flt = false) (ha : as.length = n.toNat) (hb : bs.length = n.toNat)
    (hva : ∀ a ∈ as, A.valid a) (hvb : ∀ b ∈ bs, A.valid b) (h1 : holds s ra (as.flatMap A.cells))
    (h2 : holds s rb (bs.flatMap A.cells)) (hd : fits rd A.width) :
    sopCommand ta zero add mul rd ra rb n s =
      .next (s.write rd.toNat (A.cells (sumOfProducts zero add mul as bs))) := by
  have c1 := vector_checks hA hva h1
  have c2 := vector_checks hA hvb h2
  rw [ha] at c1
  rw [hb] at c2
  have e1 := loadVector_held hA h1
  have e2 := loadVector_held hA h2
  rw [ha] at e1
  rw [hb] at e2
  rw [sopCommand, command_run hs (violation_eq_none_iff.mpr
    ⟨by simpa using ⟨c1, c2⟩, by simpa using dest_checks hA hd⟩), e1, e2, storeElem_eq hA]

end

end Sys2Proof.Machine
end

