-- ==== Sys2Proof/Laws/Reduced.lean ====
section
/-! SUPPORT. Every value function answers reduced values (41_prime_field.md R101, 42_extension_tower.md R141): "every
operation must return a reduced representative". -/

namespace Sys2Proof.Machine

/-! ### Prime fields -/

section
variable {m : Nat}

theorem addMod_lt (hm : 0 < m) (a b : Nat) : addMod m a b < m := Nat.mod_lt _ hm
theorem subMod_lt (hm : 0 < m) (a b : Nat) : subMod m a b < m := Nat.mod_lt _ hm
theorem negMod_lt (hm : 0 < m) (a : Nat) : negMod m a < m := Nat.mod_lt _ hm
theorem dblMod_lt (hm : 0 < m) (a : Nat) : dblMod m a < m := Nat.mod_lt _ hm
theorem mulMod_lt (hm : 0 < m) (a b : Nat) : mulMod m a b < m := Nat.mod_lt _ hm
theorem sqrMod_lt (hm : 0 < m) (a : Nat) : sqrMod m a < m := Nat.mod_lt _ hm

/-- What holds of one and of every product holds of every power. -/
theorem powBy_induction {α : Type} {mul : α → α → α} {one a : α} (P : α → Prop) (h1 : P one)
    (hmul : ∀ x y, P (mul x y)) (e : Nat) : P (powBy mul one a e) := by
  have key : ∀ n res, P res → P (powLoop mul a e n res) := by
    intro n
    induction n with
    | zero => intro res h; exact h
    | succ n ih =>
      intro res _
      rw [powLoop]
      split
      · exact ih _ (hmul _ _)
      · exact ih _ (hmul _ _)
  exact key _ _ h1

theorem powMod_lt (hm : 1 < m) (a e : Nat) : powMod m a e < m :=
  powBy_induction (· < m) hm (fun x y => mulMod_lt (by omega) x y) e

theorem invMod_lt (hm : 1 < m) {a b : Nat} (h : invMod m a = some b) : b < m := by
  unfold invMod at h
  split at h
  · simp at h
  · simp only [Option.some.injEq] at h
    rw [← h]; exact powMod_lt hm _ _

/-- A sum of products satisfies what zero and every sum do. -/
theorem sumOfProducts_induction {α : Type} {zero : α} {add mul : α → α → α} (P : α → Prop) (h0 : P zero)
    (hadd : ∀ x y, P (add x y)) (as bs : List α) : P (sumOfProducts zero add mul as bs) := by
  unfold sumOfProducts
  generalize as.zip bs = l
  have : ∀ acc, P acc → P (l.foldl (fun acc ab => add acc (mul ab.1 ab.2)) acc) := by
    induction l with
    | nil => intro acc h; exact h
    | cons c l ih => intro acc _; exact ih _ (hadd _ _)
  exact this _ h0

end

/-! ### The tower -/

section
variable {p : Params}

theorem fq2Zero_reduced (hq : 1 < p.q) : fq2Zero.Reduced p.q := ⟨by show 0 < _; omega, by show 0 < _; omega⟩
theorem fq2One_reduced (hq : 1 < p.q) : fq2One.Reduced p.q := ⟨hq, by show 0 < _; omega⟩
theorem fq2Add_reduced (hq : 1 < p.q) (a b : Fq2) : (fq2Add p a b).Reduced p.q :=
  ⟨addMod_lt (by omega) _ _, addMod_lt (by omega) _ _⟩
theorem fq2Sub_reduced (hq : 1 < p.q) (a b : Fq2) : (fq2Sub p a b).Reduced p.q :=
  ⟨subMod_lt (by omega) _ _, subMod_lt (by omega) _ _⟩
theorem fq2Neg_reduced (hq : 1 < p.q) (a : Fq2) : (fq2Neg p a).Reduced p.q :=
  ⟨negMod_lt (by omega) _, negMod_lt (by omega) _⟩
theorem fq2Dbl_reduced (hq : 1 < p.q) (a : Fq2) : (fq2Dbl p a).Reduced p.q :=
  ⟨dblMod_lt (by omega) _, dblMod_lt (by omega) _⟩
theorem fq2Mul_reduced (hq : 1 < p.q) (a b : Fq2) : (fq2Mul p a b).Reduced p.q :=
  ⟨addMod_lt (by omega) _ _, addMod_lt (by omega) _ _⟩
theorem fq2Sqr_reduced (hq : 1 < p.q) (a : Fq2) : (fq2Sqr p a).Reduced p.q :=
  ⟨addMod_lt (by omega) _ _, dblMod_lt (by omega) _⟩
theorem fq2Pow_reduced (hq : 1 < p.q) (a : Fq2) (e : Nat) : (fq2Pow p a e).Reduced p.q :=
  powBy_induction (Fq2.Reduced p.q) (fq2One_reduced hq) (fq2Mul_reduced hq) e

theorem fq2Inv_reduced (hq : 1 < p.q) {a b : Fq2} (h : fq2Inv p a = some b) : b.Reduced p.q := by
  unfold fq2Inv at h
  split at h
  · simp at h
  · simp only [Option.map_eq_some_iff] at h
    obtain ⟨t, _, rfl⟩ := h
    exact ⟨mulMod_lt (by omega) _ _, negMod_lt (by omega) _⟩

theorem fq2Frob_reduced (hq : 1 < p.q) {a : Fq2} (ha : a.Reduced p.q) (k : Nat) : (fq2Frob p k a).Reduced p.q :=
  ⟨ha.1, mulMod_lt (by omega) _ _⟩

theorem fq6Zero_reduced (hq : 1 < p.q) : fq6Zero.Reduced p.q :=
  ⟨fq2Zero_reduced hq, fq2Zero_reduced hq, fq2Zero_reduced hq⟩
theorem fq6One_reduced (hq : 1 < p.q) : fq6One.Reduced p.q :=
  ⟨fq2One_reduced hq, fq2Zero_reduced hq, fq2Zero_reduced hq⟩
theorem fq6Add_reduced (hq : 1 < p.q) (a b : Fq6) : (fq6Add p a b).Reduced p.q :=
  ⟨fq2Add_reduced hq _ _, fq2Add_reduced hq _ _, fq2Add_reduced hq _ _⟩
theorem fq6Sub_reduced (hq : 1 < p.q) (a b : Fq6) : (fq6Sub p a b).Reduced p.q :=
  ⟨fq2Sub_reduced hq _ _, fq2Sub_reduced hq _ _, fq2Sub_reduced hq _ _⟩
theorem fq6Neg_reduced (hq : 1 < p.q) (a : Fq6) : (fq6Neg p a).Reduced p.q :=
  ⟨fq2Neg_reduced hq _, fq2Neg_reduced hq _, fq2Neg_reduced hq _⟩
theorem fq6Dbl_reduced (hq : 1 < p.q) (a : Fq6) : (fq6Dbl p a).Reduced p.q :=
  ⟨fq2Dbl_reduced hq _, fq2Dbl_reduced hq _, fq2Dbl_reduced hq _⟩
theorem fq6Mul_reduced (hq : 1 < p.q) (a b : Fq6) : (fq6Mul p a b).Reduced p.q :=
  ⟨fq2Add_reduced hq _ _, fq2Add_reduced hq _ _, fq2Add_reduced hq _ _⟩
theorem fq6Pow_reduced (hq : 1 < p.q) (a : Fq6) (e : Nat) : (fq6Pow p a e).Reduced p.q :=
  powBy_induction (Fq6.Reduced p.q) (fq6One_reduced hq) (fq6Mul_reduced hq) e

theorem fq6Inv_reduced (hq : 1 < p.q) {a b : Fq6} (h : fq6Inv p a = some b) : b.Reduced p.q := by
  unfold fq6Inv at h
  split at h
  · simp at h
  · simp only [Option.map_eq_some_iff] at h
    obtain ⟨t, _, rfl⟩ := h
    exact ⟨fq2Mul_reduced hq _ _, fq2Mul_reduced hq _ _, fq2Mul_reduced hq _ _⟩

theorem fq6Frob_reduced (hq : 1 < p.q) {a : Fq6} (ha : a.Reduced p.q) (k : Nat) : (fq6Frob p k a).Reduced p.q :=
  ⟨fq2Frob_reduced hq ha.1 k, fq2Mul_reduced hq _ _, fq2Mul_reduced hq _ _⟩

theorem fq12Zero_reduced (hq : 1 < p.q) : fq12Zero.Reduced p.q := ⟨fq6Zero_reduced hq, fq6Zero_reduced hq⟩
theorem fq12One_reduced (hq : 1 < p.q) : fq12One.Reduced p.q := ⟨fq6One_reduced hq, fq6Zero_reduced hq⟩
theorem fq12Add_reduced (hq : 1 < p.q) (a b : Fq12) : (fq12Add p a b).Reduced p.q :=
  ⟨fq6Add_reduced hq _ _, fq6Add_reduced hq _ _⟩
theorem fq12Sub_reduced (hq : 1 < p.q) (a b : Fq12) : (fq12Sub p a b).Reduced p.q :=
  ⟨fq6Sub_reduced hq _ _, fq6Sub_reduced hq _ _⟩
theorem fq12Neg_reduced (hq : 1 < p.q) (a : Fq12) : (fq12Neg p a).Reduced p.q :=
  ⟨fq6Neg_reduced hq _, fq6Neg_reduced hq _⟩
theorem fq12Dbl_reduced (hq : 1 < p.q) (a : Fq12) : (fq12Dbl p a).Reduced p.q :=
  ⟨fq6Dbl_reduced hq _, fq6Dbl_reduced hq _⟩
theorem fq12Mul_reduced (hq : 1 < p.q) (a b : Fq12) : (fq12Mul p a b).Reduced p.q :=
  ⟨fq6Add_reduced hq _ _, fq6Add_reduced hq _ _⟩
theorem fq12Pow_reduced (hq : 1 < p.q) (a : Fq12) (e : Nat) : (fq12Pow p a e).Reduced p.q :=
  powBy_induction (Fq12.Reduced p.q) (fq12One_reduced hq) (fq12Mul_reduced hq) e

theorem fq12Inv_reduced (hq : 1 < p.q) {a b : Fq12} (h : fq12Inv p a = some b) : b.Reduced p.q := by
  unfold fq12Inv at h
  split at h
  · simp at h
  · simp only [Option.map_eq_some_iff] at h
    obtain ⟨t, _, rfl⟩ := h
    exact ⟨fq6Mul_reduced hq _ _, fq6Neg_reduced hq _⟩

theorem fq12Frob_reduced (hq : 1 < p.q) {a : Fq12} (ha : a.Reduced p.q) (k : Nat) :
    (fq12Frob p k a).Reduced p.q :=
  ⟨fq6Frob_reduced hq ha.1 k, fq6Mul_reduced hq _ _⟩

theorem freeFq12_reduced (hq : 1 < p.q) (k : Nat) : (freeFq12 p k).Reduced p.q := by
  have h : ∀ j, Config.cycFree k j % p.q < p.q := fun j => Nat.mod_lt _ (by omega)
  exact ⟨⟨⟨h _, h _⟩, ⟨h _, h _⟩, ⟨h _, h _⟩⟩, ⟨⟨h _, h _⟩, ⟨h _, h _⟩, ⟨h _, h _⟩⟩⟩

/-! ### The curve -/

theorem jacIdentity_reduced (hq : 1 < p.q) : jacIdentity.Reduced p.q :=
  ⟨by show 0 < _; omega, hq, by show 0 < _; omega⟩
theorem affIdentity_reduced (hq : 1 < p.q) : affIdentity.Reduced p.q := ⟨by show 0 < _; omega, hq, le_refl 1⟩

theorem jacDouble_reduced (hq : 1 < p.q) {P : Jacobian} (hP : P.Reduced p.q) : (jacDouble p P).Reduced p.q := by
  unfold jacDouble
  split
  · exact hP
  · exact ⟨subMod_lt (by omega) _ _, subMod_lt (by omega) _ _, mulMod_lt (by omega) _ _⟩

theorem jacAdd_reduced (hq : 1 < p.q) {P Q : Jacobian} (hP : P.Reduced p.q) (hQ : Q.Reduced p.q) :
    (jacAdd p P Q).Reduced p.q := by
  unfold jacAdd
  split; · exact hQ
  split; · exact hP
  dsimp only
  split; · exact jacDouble_reduced hq hP
  exact ⟨subMod_lt (by omega) _ _, subMod_lt (by omega) _ _, mulMod_lt (by omega) _ _⟩

theorem jacAddMixed_reduced (hq : 1 < p.q) {P : Jacobian} {Q : Affine} (hP : P.Reduced p.q) (hQ : Q.Reduced p.q) :
    (jacAddMixed p P Q).Reduced p.q := by
  unfold jacAddMixed
  split; · exact hP
  split; · exact ⟨hQ.1, hQ.2.1, hq⟩
  dsimp only
  split; · exact jacDouble_reduced hq hP
  exact ⟨subMod_lt (by omega) _ _, subMod_lt (by omega) _ _, subMod_lt (by omega) _ _⟩

theorem affNeg_reduced (hq : 1 < p.q) {P : Affine} (hP : P.Reduced p.q) : (affNeg p P).Reduced p.q := by
  unfold affNeg
  split
  · exact affIdentity_reduced hq
  · exact ⟨hP.1, negMod_lt (by omega) _, Nat.zero_le _⟩

theorem toJacobian_reduced (hq : 1 < p.q) {P : Affine} (hP : P.Reduced p.q) : (toJacobian P).Reduced p.q := by
  unfold toJacobian
  split
  · exact jacIdentity_reduced hq
  · exact ⟨hP.1, hP.2.1, hq⟩

theorem toAffine_reduced (hq : 1 < p.q) {P : Jacobian} (hP : P.Reduced p.q) : (toAffine p P).Reduced p.q := by
  unfold toAffine
  split; · exact affIdentity_reduced hq
  split; · exact ⟨hP.1, hP.2.1, Nat.zero_le _⟩
  exact ⟨mulMod_lt (by omega) _ _, mulMod_lt (by omega) _ _, Nat.zero_le _⟩

theorem normalizePoint_reduced (hq : 1 < p.q) {P : Jacobian} (hP : P.Reduced p.q) :
    (normalizePoint p P).Reduced p.q := by
  unfold normalizePoint
  split
  · exact hP
  · exact ⟨mulMod_lt (by omega) _ _, mulMod_lt (by omega) _ _, hq⟩

theorem batchNormalize_reduced (hq : 1 < p.q) {ps : List Jacobian} (h : ∀ P ∈ ps, P.Reduced p.q) :
    ∀ P ∈ batchNormalize p ps, P.Reduced p.q := by
  intro P hP
  simp only [batchNormalize, List.mem_map] at hP
  obtain ⟨Q, hQ, rfl⟩ := hP
  exact normalizePoint_reduced hq (h Q hQ)

/-! ### Scalar multiplication -/

theorem naiveMul_reduced (hq : 1 < p.q) {P : Jacobian} (hP : P.Reduced p.q) (e : Nat) :
    (naiveMul p P e).Reduced p.q := by
  have key : ∀ n res, res.Reduced p.q → (naiveLoop p P e n res).Reduced p.q := by
    intro n
    induction n with
    | zero => intro res h; exact h
    | succ n ih =>
      intro res h
      rw [naiveLoop]
      split
      · exact ih _ (jacAdd_reduced hq (jacDouble_reduced hq h) hP)
      · exact ih _ (jacDouble_reduced hq h)
  exact key _ _ (jacIdentity_reduced hq)

theorem oddMultiples_reduced (hq : 1 < p.q) {D : Affine} (hD : D.Reduced p.q) {P : Jacobian} (hP : P.Reduced p.q)
    (n : Nat) : ∀ Q ∈ oddMultiples p D n P, Q.Reduced p.q := by
  induction n generalizing P with
  | zero => simp [oddMultiples]
  | succ n ih =>
    intro Q hQ
    simp only [oddMultiples, List.mem_cons] at hQ
    rcases hQ with rfl | hQ
    · exact hP
    · exact ih (jacAddMixed_reduced hq hP hD) Q hQ

theorem windowTables_reduced (hq : 1 < p.q) {P : Jacobian} (hP : P.Reduced p.q) :
    (∀ E ∈ (windowTables p P).1, E.Reduced p.q) ∧ ∀ E ∈ (windowTables p P).2, E.Reduced p.q := by
  have hD : (toAffine p (jacDouble p P)).Reduced p.q := toAffine_reduced hq (jacDouble_reduced hq hP)
  have h1 := oddMultiples_reduced hq hD hP 8
  have hall : ∀ E ∈ (batchNormalize p (oddMultiples p (toAffine p (jacDouble p P)) 8 P ++
      (oddMultiples p (toAffine p (jacDouble p P)) 8 P).map (endo p))).map (toAffine p), E.Reduced p.q := by
    intro E hE
    obtain ⟨Q, hQ, rfl⟩ := List.mem_map.mp hE
    refine toAffine_reduced hq (batchNormalize_reduced hq (fun R hR => ?_) Q hQ)
    rcases List.mem_append.mp hR with hR | hR
    · exact h1 R hR
    · obtain ⟨S, hS, rfl⟩ := List.mem_map.mp hR
      exact ⟨mulMod_lt (by omega) _ _, (h1 S hS).2.1, (h1 S hS).2.2⟩
  exact ⟨fun E hE => hall E (List.mem_of_mem_take hE), fun E hE => hall E (List.mem_of_mem_drop hE)⟩

theorem addDigit_reduced (hq : 1 < p.q) {A : List Affine} (hA : ∀ E ∈ A, E.Reduced p.q) (ds : List Int) (i : Nat)
    {acc : Jacobian} (h : acc.Reduced p.q) : (addDigit p ds A i acc).Reduced p.q := by
  unfold addDigit
  split
  · exact h
  · split
    · exact h
    · refine jacAddMixed_reduced hq h ?_
      rename_i d _ _
      have hE : (A.getD (d.natAbs / 2) affIdentity).Reduced p.q := by
        rw [List.getD_eq_getElem?_getD]
        cases hg : A[d.natAbs / 2]? with
        | none => exact affIdentity_reduced hq
        | some E => exact hA E (List.mem_of_getElem? hg)
      unfold digitPoint
      simp only
      split
      · exact affNeg_reduced hq hE
      · exact hE

theorem glvMul_reduced (hq : 1 < p.q) {P : Jacobian} (hP : P.Reduced p.q) (k : Nat) : (glvMul p P k).Reduced p.q := by
  obtain ⟨h1, h2⟩ := windowTables_reduced hq hP
  have key : ∀ n1 n2 n acc, acc.Reduced p.q →
      (combinedFrom p n1 n2 (windowTables p P).1 (windowTables p P).2 n acc).Reduced p.q := by
    intro n1 n2 n
    induction n with
    | zero => intro acc h; exact h
    | succ n ih =>
      intro acc h
      rw [combinedFrom]
      have h' := addDigit_reduced hq h2 n2 n (addDigit_reduced hq h1 n1 n h)
      apply ih
      split
      · exact h'
      · exact jacDouble_reduced hq h'
  exact key _ _ _ _ (jacIdentity_reduced hq)

end

/-! ### Square roots -/

theorem sqrtMod_lt {f : PrimeParams} (hm : 1 < f.modulus) {a y : Nat} (ha : a < f.modulus)
    (h : sqrtMod f a = .root y) : y < f.modulus := by
  unfold sqrtMod at h
  split at h
  · simp only [SqrtResult.root.injEq] at h; omega
  · simp at h
  · simp only at h
    split at h
    · simp at h
    · simp only [SqrtResult.root.injEq] at h
      rw [← h]; exact mulMod_lt (by omega) _ _

theorem decodedPoint_reduced {p : Params} (hq : 1 < p.q) {x y : Nat} (hx : x < p.q) (hy : y < p.q) (b : Bool) :
    (decodedPoint p x b y).Reduced p.q := by
  have hn := negMod_lt (m := p.q) (by omega) y
  refine ⟨hx, ?_, Nat.zero_le _⟩
  unfold decodedPoint
  simp only
  split
  · exact max_lt hy hn
  · exact lt_of_le_of_lt (min_le_left _ _) hy

end Sys2Proof.Machine
end

