-- ==== Sys2Proof/Laws/Effects.lean ====
section
/-! SUPPORT. Once, everything a meaning can do: what each shape of a command answers, and from that what `exec` answers
for every instruction. Frames, the invariant and the reading back of results follow from `exec_outcome` alone. -/

namespace Sys2Proof.Machine

/-- The integers may stand in the cells of the operand: as many as it has cells, each as its kind admits. -/
def Source.AdmitsAll (d : Source) (vs : List Nat) : Prop :=
  vs.length = sourceWidth d ∧ ∀ (j : Nat) (k : CellKind) (v : Nat), d.kindAt j = some k → vs[j]? = some v → k.Admits v

/-- What a command that passed its checks leaves. -/
inductive Effect (i : Instr) (s : State) : State → Prop
  /-- Nothing. -/
  | nothing (h : i = .nop) : Effect i s s
  /-- A result, and for a cyclotomic command perhaps a draw. -/
  | result (d : Source) (vs : List Nat) (drawn : Nat) (hd : instrResult i = some d) (hn : writesN i = false)
      (hv : d.AdmitsAll vs) (hw : drawsFree i = false → drawn = s.drawn) :
      Effect i s { s.write d.start vs with drawn := drawn }
  /-- The value of a `None`-capable command. -/
  | value (d : Source) (vs : List Nat) (hd : instrResult i = some d) (hn : writesN i = true) (hv : d.AdmitsAll vs) :
      Effect i s ((s.setN false).write d.start vs)
  /-- `None`. -/
  | absent (d : Source) (hd : instrResult i = some d) (hn : writesN i = true) :
      Effect i s ((s.unwrite d.start (sourceWidth d)).setN true)
  /-- The truth value of a predicate. -/
  | test (b : Bool) (hd : instrResult i = none) (ht : writesT i = true) : Effect i s (s.setT b)
  /-- A Legendre class. -/
  | legendre (c : Legendre) (hl : writesL i = true) : Effect i s (s.setL c)
  /-- An output payload. -/
  | send (out : List Limb) (ho : sendsPayload i = true) : Effect i s { s with portOut := out }

/-- All a meaning can answer with a next state: refused, a fault, or its effect. -/
def Outcome (i : Instr) (s t : State) : Prop :=
  (s.flt = true ∧ t = s) ∨ (s.flt = false ∧ ∃ c, t = takeFault c s) ∨ (s.flt = false ∧ Effect i s t)

/-- A command ends in one of the three ways. -/
theorem command_outcome {i : Instr} {srcs : List Source} {dsts : List Dest} {s t : State} {e : Result}
    (h : command srcs dsts s e = .next t)
    (he : violation srcs dsts s.cells = none → e = .next t → Effect i s t) : Outcome i s t := by
  rcases command_cases h with ⟨hs, hr⟩ | ⟨hs, c, _, hr⟩ | ⟨hs, hv, hr⟩
  · exact .inl ⟨hs, by simpa using hr⟩
  · exact .inr (.inl ⟨hs, c, by simpa using hr⟩)
  · exact .inr (.inr ⟨hs, he hv hr.symm⟩)

/-! ### The shapes -/

section
variable {α β γ : Type} {ta : ElemTy α} {tb : ElemTy β} {td : ElemTy γ}
variable {A : Form α} {B : Form β} {C : Form γ}
variable {i : Instr} {rd ra rb : CellIdx} {s t : State}

/-- The cells of valid elements may stand in their operand. -/
theorem vector_admitsAll (hC : HasForm td C) {cs : List γ} (hv : ∀ c ∈ cs, C.valid c) :
    (vectorSource td rd cs.length).AdmitsAll (cs.flatMap C.cells) := by
  constructor
  · rw [length_flatMap_cells hC]
    show _ = cs.length * td.kinds.length
    rw [hC.width]
  · intro j k v hk hj
    change td.kinds[j % td.kinds.length]? = some k at hk
    rw [hC.width] at hk
    have hpos := hC.pos
    have hmod : j % C.width < C.width := Nat.mod_lt j hpos
    have g := getElem?_flatMap_cells hC (as := cs) (j := j / C.width) hmod
    rw [show j / C.width * C.width + j % C.width = j by rw [Nat.mul_comm]; exact Nat.div_add_mod j C.width, hj] at g
    obtain ⟨c, hc, hcv⟩ := Option.bind_eq_some_iff.mp g.symm
    exact hC.admits c (hv c (List.mem_of_getElem? hc)) _ k v hk hcv

theorem elem_admitsAll (hC : HasForm td C) {c : γ} (hc : C.valid c) : (elemSource td rd).AdmitsAll (C.cells c) := by
  have h := vector_admitsAll (rd := rd) hC (cs := [c]) (by simpa using hc)
  rw [List.flatMap_singleton] at h
  exact h

/-- Writing an element is a result. -/
theorem store_effect (hr : instrResult i = some (elemSource td rd)) (hn : writesN i = false) (hC : HasForm td C)
    {c : γ} (hc : C.valid c) : Effect i s (storeElem td s rd c) := by
  rw [storeElem_eq hC]
  exact Effect.result _ _ s.drawn hr hn (elem_admitsAll hC hc) fun _ => rfl

/-- The end of a `None`-capable command is a value or `None`. -/
theorem option_effect (hr : instrResult i = some (elemSource td rd)) (hn : writesN i = true) (hC : HasForm td C)
    {o : Option γ} (ho : ∀ c ∈ o, C.valid c) : Effect i s (storeOption td s rd o) := by
  cases o with
  | none =>
    have h := Effect.absent (s := s) _ hr hn
    rwa [show sourceWidth (elemSource td rd) = elemWidth td from Nat.one_mul _] at h
  | some c =>
    rw [storeOption_eq hC]
    exact Effect.value _ _ hr hn (elem_admitsAll hC (ho c rfl))

theorem const_outcome {c : γ} (hr : instrResult i = some (elemSource td rd)) (hn : writesN i = false)
    (hC : HasForm td C) (hc : C.valid c) (h : constCommand td c rd s = .next t) : Outcome i s t :=
  command_outcome h fun _ he => by
    rw [Host.Outcome.next.injEq] at he; subst he; exact store_effect hr hn hC hc

theorem unary_outcome {f : α → γ} (hr : instrResult i = some (elemSource td rd)) (hn : writesN i = false)
    (hA : HasForm ta A) (hC : HasForm td C) (hf : ∀ a, A.valid a → C.valid (f a))
    (h : unaryCommand ta td f rd ra s = .next t) : Outcome i s t :=
  command_outcome h fun hv he => by
    rw [Host.Outcome.next.injEq] at he; subst he
    exact store_effect hr hn hC (hf _ (loadElem_valid hA ((violation_eq_none_iff.mp hv).1 _ (by simp))))

theorem binary_outcome {f : α → β → γ} (hr : instrResult i = some (elemSource td rd)) (hn : writesN i = false)
    (hA : HasForm ta A) (hB : HasForm tb B) (hC : HasForm td C)
    (hf : ∀ a b, A.valid a → B.valid b → C.valid (f a b))
    (h : binaryCommand ta tb td f rd ra rb s = .next t) : Outcome i s t :=
  command_outcome h fun hv he => by
    rw [Host.Outcome.next.injEq] at he; subst he
    exact store_effect hr hn hC (hf _ _ (loadElem_valid hA ((violation_eq_none_iff.mp hv).1 _ (by simp)))
      (loadElem_valid hB ((violation_eq_none_iff.mp hv).1 _ (by simp))))

theorem partialUnary_outcome {f : α → Option γ} (hr : instrResult i = some (elemSource td rd))
    (hn : writesN i = true) (hA : HasForm ta A) (hC : HasForm td C)
    (hf : ∀ a, A.valid a → ∀ c, f a = some c → C.valid c)
    (h : partialUnaryCommand ta td f rd ra s = .next t) : Outcome i s t :=
  command_outcome h fun hv he => by
    rw [Host.Outcome.next.injEq] at he; subst he
    exact option_effect hr hn hC fun c hc =>
      hf _ (loadElem_valid hA ((violation_eq_none_iff.mp hv).1 _ (by simp))) c hc

theorem partialBinary_outcome {f : α → β → Option γ} (hr : instrResult i = some (elemSource td rd))
    (hn : writesN i = true) (hA : HasForm ta A) (hB : HasForm tb B) (hC : HasForm td C)
    (hf : ∀ a b, A.valid a → B.valid b → ∀ c, f a b = some c → C.valid c)
    (h : partialBinaryCommand ta tb td f rd ra rb s = .next t) : Outcome i s t :=
  command_outcome h fun hv he => by
    rw [Host.Outcome.next.injEq] at he; subst he
    exact option_effect hr hn hC fun c hc =>
      hf _ _ (loadElem_valid hA ((violation_eq_none_iff.mp hv).1 _ (by simp)))
        (loadElem_valid hB ((violation_eq_none_iff.mp hv).1 _ (by simp))) c hc

theorem divideBy_valid {mul : α → α → α} {inv : α → Option α} {P : α → Prop} (h : ∀ a b, P (mul a b)) {a b c : α}
    (hc : divideBy mul inv a b = some c) : P c := by
  simp only [divideBy, Option.map_eq_some_iff] at hc
  obtain ⟨d, _, rfl⟩ := hc
  exact h a d

theorem test_outcome {f : α → Bool} (hr : instrResult i = none) (ht : writesT i = true)
    (h : testCommand ta f ra s = .next t) : Outcome i s t :=
  command_outcome h fun _ he => by
    rw [Host.Outcome.next.injEq] at he; subst he; exact .test _ hr ht

theorem compare_outcome {f : α → β → Bool} (hr : instrResult i = none) (ht : writesT i = true)
    (h : compareCommand ta tb f ra rb s = .next t) : Outcome i s t :=
  command_outcome h fun _ he => by
    rw [Host.Outcome.next.injEq] at he; subst he; exact .test _ hr ht

theorem sop_outcome {zero : α} {add mul : α → α → α} {n : Imm} (hr : instrResult i = some (elemSource ta rd))
    (hn : writesN i = false) (hA : HasForm ta A) (hf : ∀ as bs, A.valid (sumOfProducts zero add mul as bs))
    (h : sopCommand ta zero add mul rd ra rb n s = .next t) : Outcome i s t :=
  command_outcome h fun _ he => by
    rw [Host.Outcome.next.injEq] at he; subst he; exact store_effect hr hn hA (hf _ _)

theorem leg_outcome {m : Nat} (hl : writesL i = true) (h : legCommand m ra s = .next t) : Outcome i s t :=
  command_outcome h fun _ he => by
    rw [Host.Outcome.next.injEq] at he; subst he; exact .legendre _ hl

/-- The end of a square root is a value or `None`. -/
theorem root_effect {mk : Nat → γ} {r : SqrtResult} (hr : instrResult i = some (elemSource td rd))
    (hn : writesN i = true) (hC : HasForm td C) (hm : ∀ y, r = .root y → C.valid (mk y))
    (h : storeRoot td s rd mk r = .next t) : Effect i s t := by
  cases r with
  | root y =>
    simp only [storeRoot, Host.Outcome.next.injEq] at h; subst h
    exact option_effect hr hn hC (by simpa using hm y rfl)
  | nonResidue =>
    simp only [storeRoot, Host.Outcome.next.injEq] at h; subst h
    exact option_effect hr hn hC (by simp)
  | hang => simp [storeRoot] at h

theorem sqrt_outcome {f : PrimeParams} (hr : instrResult i = some (elemSource (primeElem f.modulus) rd))
    (hn : writesN i = true) (hm : 1 < f.modulus) (h : sqrtCommand f rd ra s = .next t) : Outcome i s t :=
  command_outcome h fun hv he => root_effect hr hn (primeElem_form _) (fun _ hy =>
    sqrtMod_lt hm (loadElem_valid (primeElem_form _) ((violation_eq_none_iff.mp hv).1 _ (by simp))) hy) he

end

/-! ### The commands with a shape of their own -/

section
variable {rd ra rb : CellIdx} {n : Imm} {s t : State}

theorem nop_outcome (h : exec .nop s = .next t) : Outcome .nop s t :=
  command_outcome (srcs := []) (dsts := []) (e := .next s) h fun _ he => by
    rw [Host.Outcome.next.injEq] at he; subst he; exact .nothing rfl

theorem ld_outcome (h : exec (.ld rd) s = .next t) : Outcome (.ld rd) s t :=
  command_outcome h fun _ he => by
    split at he
    · rw [Host.Outcome.next.injEq] at he; subst he
      exact store_effect (td := rawElem) rfl rfl rawElem_form trivial
    · simp at he

theorem st_outcome (h : exec (.st ra) s = .next t) : Outcome (.st ra) s t :=
  command_outcome h fun _ he => by
    rw [Host.Outcome.next.injEq] at he; subst he; exact .send _ rfl

theorem raw_flatMap (vs : List Nat) : vs.flatMap rawForm.cells = vs := by
  simp [rawForm, List.flatMap_singleton']

theorem mov_outcome (h : exec (.mov rd ra n) s = .next t) : Outcome (.mov rd ra n) s t :=
  command_outcome h fun _ he => by
    rw [Host.Outcome.next.injEq] at he; subst he
    have ha := vector_admitsAll (rd := rd) rawElem_form (cs := loadVector rawElem s ra n.toNat) fun _ _ => trivial
    rw [raw_flatMap, length_loadVector] at ha
    exact Effect.result _ _ s.drawn rfl rfl ha fun _ => rfl

theorem bnorm_outcome (h : exec (.bnorm rd n) s = .next t) : Outcome (.bnorm rd n) s t :=
  command_outcome h fun hv he => by
    rw [Host.Outcome.next.injEq] at he; subst he
    have hl := loadVector_valid (i := rd) (n := n.toNat) jacElem_form
      ((violation_eq_none_iff.mp hv).1 _ (List.mem_singleton.mpr rfl))
    have ha := vector_admitsAll (rd := rd) jacElem_form
      (cs := batchNormalize Config.params (loadVector (jacElem Config.params) s rd n.toNat))
      (batchNormalize_reduced Config.one_lt_q hl)
    rw [show (batchNormalize Config.params (loadVector (jacElem Config.params) s rd n.toNat)).length = n.toNat by
      simp [batchNormalize]] at ha
    exact Effect.result _ _ s.drawn rfl rfl ha fun _ => rfl

theorem cyclotomic_effect {i : Instr} (hr : instrResult i = some (elemSource (fq12Elem Config.params) rd))
    (hn : writesN i = false) (hw : drawsFree i = true) {a v : Fq12} (hv : v.Reduced Config.params.q) :
    Effect i s (storeCyclotomic Config.params s rd a v) := by
  unfold storeCyclotomic
  split
  · exact store_effect hr hn fq12Elem_form hv
  · rw [storeElem_eq fq12Elem_form]
    exact Effect.result _ _ _ hr hn (elem_admitsAll fq12Elem_form (freeFq12_reduced Config.one_lt_q _))
      (by simp [hw])

theorem cycsqr_outcome (h : exec (.cycsqrFq12 rd ra) s = .next t) : Outcome (.cycsqrFq12 rd ra) s t :=
  command_outcome h fun _ he => by
    simp only [Host.Outcome.next.injEq] at he; subst he
    exact cyclotomic_effect rfl rfl rfl (fq12Mul_reduced Config.one_lt_q _ _)

theorem cycexp_outcome (h : exec (.cycexpFq12 rd ra rb) s = .next t) : Outcome (.cycexpFq12 rd ra rb) s t :=
  command_outcome h fun _ he => by
    simp only [Host.Outcome.next.injEq] at he; subst he
    exact cyclotomic_effect rfl rfl rfl (fq12Pow_reduced Config.one_lt_q _ _)

theorem pdec_outcome (h : exec (.pdec rd ra n) s = .next t) : Outcome (.pdec rd ra n) s t := by
  change pdecCommand Config.params rd ra n s = .next t at h
  unfold pdecCommand at h
  split at h
  · refine command_outcome h fun hv he => ?_
    have hx : loadElem (primeElem Config.params.q) s ra < Config.params.q :=
      loadElem_valid (primeElem_form _) ((violation_eq_none_iff.mp hv).1 _ (by simp))
    exact root_effect rfl rfl affElem_form (fun y hy => decodedPoint_reduced Config.one_lt_q hx
      (sqrtMod_lt Config.one_lt_q (addMod_lt Config.q_pos _ _) hy) _) he
  · rcases command_cases h with ⟨hs, hr⟩ | ⟨_, c, hv, _⟩ | ⟨hs, _, hr⟩
    · exact .inl ⟨hs, by simpa using hr⟩
    · have hn : violation [] [] s.cells = none := rfl
      rw [hn] at hv; simp at hv
    · exact .inr (.inl ⟨hs, .illegal, by simpa using hr⟩)

end

/-! ### Every instruction -/

section
variable {rd ra rb : CellIdx} {n k sign imm : Imm} {s t : State}

theorem ldi_outcome (h : exec (.ldi rd imm) s = .next t) : Outcome (.ldi rd imm) s t := by
  exact const_outcome rfl rfl rawElem_form trivial h

theorem zeroFq_outcome (h : exec (.zeroFq rd) s = .next t) : Outcome (.zeroFq rd) s t := by
  exact const_outcome rfl rfl (primeElem_form _) Config.q_pos h

theorem zeroFr_outcome (h : exec (.zeroFr rd) s = .next t) : Outcome (.zeroFr rd) s t := by
  exact const_outcome rfl rfl (primeElem_form _) Config.r_pos h

theorem oneFq_outcome (h : exec (.oneFq rd) s = .next t) : Outcome (.oneFq rd) s t := by
  exact const_outcome rfl rfl (primeElem_form _) Config.one_lt_q h

theorem oneFr_outcome (h : exec (.oneFr rd) s = .next t) : Outcome (.oneFr rd) s t := by
  exact const_outcome rfl rfl (primeElem_form _) Config.one_lt_r h

theorem iszFq_outcome (h : exec (.iszFq ra) s = .next t) : Outcome (.iszFq ra) s t := by
  change execIszFq ra s = _ at h
  unfold execIszFq at h
  exact test_outcome rfl rfl h

theorem iszFr_outcome (h : exec (.iszFr ra) s = .next t) : Outcome (.iszFr ra) s t := by
  change execIszFr ra s = _ at h
  unfold execIszFr at h
  exact test_outcome rfl rfl h

theorem isoneFq_outcome (h : exec (.isoneFq ra) s = .next t) : Outcome (.isoneFq ra) s t := by
  change execIsoneFq ra s = _ at h
  unfold execIsoneFq at h
  exact test_outcome rfl rfl h

theorem isoneFr_outcome (h : exec (.isoneFr ra) s = .next t) : Outcome (.isoneFr ra) s t := by
  change execIsoneFr ra s = _ at h
  unfold execIsoneFr at h
  exact test_outcome rfl rfl h

theorem eqFq_outcome (h : exec (.eqFq ra rb) s = .next t) : Outcome (.eqFq ra rb) s t := by
  change execEqFq ra rb s = _ at h
  unfold execEqFq at h
  exact compare_outcome rfl rfl h

theorem eqFr_outcome (h : exec (.eqFr ra rb) s = .next t) : Outcome (.eqFr ra rb) s t := by
  change execEqFr ra rb s = _ at h
  unfold execEqFr at h
  exact compare_outcome rfl rfl h

theorem addFq_outcome (h : exec (.addFq rd ra rb) s = .next t) : Outcome (.addFq rd ra rb) s t := by
  exact binary_outcome rfl rfl (primeElem_form _) (primeElem_form _) (primeElem_form _)
    (fun _ _ _ _ => addMod_lt Config.q_pos _ _) h

theorem addFr_outcome (h : exec (.addFr rd ra rb) s = .next t) : Outcome (.addFr rd ra rb) s t := by
  exact binary_outcome rfl rfl (primeElem_form _) (primeElem_form _) (primeElem_form _)
    (fun _ _ _ _ => addMod_lt Config.r_pos _ _) h

theorem subFq_outcome (h : exec (.subFq rd ra rb) s = .next t) : Outcome (.subFq rd ra rb) s t := by
  exact binary_outcome rfl rfl (primeElem_form _) (primeElem_form _) (primeElem_form _)
    (fun _ _ _ _ => subMod_lt Config.q_pos _ _) h

theorem subFr_outcome (h : exec (.subFr rd ra rb) s = .next t) : Outcome (.subFr rd ra rb) s t := by
  exact binary_outcome rfl rfl (primeElem_form _) (primeElem_form _) (primeElem_form _)
    (fun _ _ _ _ => subMod_lt Config.r_pos _ _) h

theorem mulFq_outcome (h : exec (.mulFq rd ra rb) s = .next t) : Outcome (.mulFq rd ra rb) s t := by
  exact binary_outcome rfl rfl (primeElem_form _) (primeElem_form _) (primeElem_form _)
    (fun _ _ _ _ => mulMod_lt Config.q_pos _ _) h

theorem mulFr_outcome (h : exec (.mulFr rd ra rb) s = .next t) : Outcome (.mulFr rd ra rb) s t := by
  exact binary_outcome rfl rfl (primeElem_form _) (primeElem_form _) (primeElem_form _)
    (fun _ _ _ _ => mulMod_lt Config.r_pos _ _) h

theorem negFq_outcome (h : exec (.negFq rd ra) s = .next t) : Outcome (.negFq rd ra) s t := by
  exact unary_outcome rfl rfl (primeElem_form _) (primeElem_form _) (fun _ _ => negMod_lt Config.q_pos _) h

theorem negFr_outcome (h : exec (.negFr rd ra) s = .next t) : Outcome (.negFr rd ra) s t := by
  exact unary_outcome rfl rfl (primeElem_form _) (primeElem_form _) (fun _ _ => negMod_lt Config.r_pos _) h

theorem dblFq_outcome (h : exec (.dblFq rd ra) s = .next t) : Outcome (.dblFq rd ra) s t := by
  exact unary_outcome rfl rfl (primeElem_form _) (primeElem_form _) (fun _ _ => dblMod_lt Config.q_pos _) h

theorem dblFr_outcome (h : exec (.dblFr rd ra) s = .next t) : Outcome (.dblFr rd ra) s t := by
  exact unary_outcome rfl rfl (primeElem_form _) (primeElem_form _) (fun _ _ => dblMod_lt Config.r_pos _) h

theorem sqrFq_outcome (h : exec (.sqrFq rd ra) s = .next t) : Outcome (.sqrFq rd ra) s t := by
  exact unary_outcome rfl rfl (primeElem_form _) (primeElem_form _) (fun _ _ => sqrMod_lt Config.q_pos _) h

theorem sqrFr_outcome (h : exec (.sqrFr rd ra) s = .next t) : Outcome (.sqrFr rd ra) s t := by
  exact unary_outcome rfl rfl (primeElem_form _) (primeElem_form _) (fun _ _ => sqrMod_lt Config.r_pos _) h

theorem invFq_outcome (h : exec (.invFq rd ra) s = .next t) : Outcome (.invFq rd ra) s t := by
  exact partialUnary_outcome rfl rfl (primeElem_form _) (primeElem_form _)
    (fun _ _ _ hb => invMod_lt Config.one_lt_q hb) h

theorem invFr_outcome (h : exec (.invFr rd ra) s = .next t) : Outcome (.invFr rd ra) s t := by
  exact partialUnary_outcome rfl rfl (primeElem_form _) (primeElem_form _)
    (fun _ _ _ hb => invMod_lt Config.one_lt_r hb) h

theorem divFq_outcome (h : exec (.divFq rd ra rb) s = .next t) : Outcome (.divFq rd ra rb) s t := by
  change execDivFq rd ra rb s = _ at h
  unfold execDivFq at h
  exact partialBinary_outcome rfl rfl (primeElem_form _) (primeElem_form _) (primeElem_form _)
    (fun _ _ _ _ _ hc => divideBy_valid (P := (· < Config.params.q)) (fun _ _ => mulMod_lt Config.q_pos _ _) hc) h

theorem divFr_outcome (h : exec (.divFr rd ra rb) s = .next t) : Outcome (.divFr rd ra rb) s t := by
  change execDivFr rd ra rb s = _ at h
  unfold execDivFr at h
  exact partialBinary_outcome rfl rfl (primeElem_form _) (primeElem_form _) (primeElem_form _)
    (fun _ _ _ _ _ hc => divideBy_valid (P := (· < Config.params.r)) (fun _ _ => mulMod_lt Config.r_pos _ _) hc) h

theorem powFq_outcome (h : exec (.powFq rd ra rb) s = .next t) : Outcome (.powFq rd ra rb) s t := by
  exact binary_outcome rfl rfl (primeElem_form _) rawElem_form (primeElem_form _)
    (fun _ _ _ _ => powMod_lt Config.one_lt_q _ _) h

theorem powFr_outcome (h : exec (.powFr rd ra rb) s = .next t) : Outcome (.powFr rd ra rb) s t := by
  exact binary_outcome rfl rfl (primeElem_form _) rawElem_form (primeElem_form _)
    (fun _ _ _ _ => powMod_lt Config.one_lt_r _ _) h

theorem sopFq_outcome (h : exec (.sopFq rd ra rb n) s = .next t) : Outcome (.sopFq rd ra rb n) s t := by
  exact sop_outcome rfl rfl (primeElem_form _) (fun as bs => sumOfProducts_induction (· < _) Config.q_pos
    (fun _ _ => addMod_lt Config.q_pos _ _) as bs) h

theorem sopFr_outcome (h : exec (.sopFr rd ra rb n) s = .next t) : Outcome (.sopFr rd ra rb n) s t := by
  exact sop_outcome rfl rfl (primeElem_form _) (fun as bs => sumOfProducts_induction (· < _) Config.r_pos
    (fun _ _ => addMod_lt Config.r_pos _ _) as bs) h

theorem charFq_outcome (h : exec (.charFq rd) s = .next t) : Outcome (.charFq rd) s t := by
  exact const_outcome rfl rfl rawElem_form trivial h

theorem charFr_outcome (h : exec (.charFr rd) s = .next t) : Outcome (.charFr rd) s t := by
  exact const_outcome rfl rfl rawElem_form trivial h

theorem legFq_outcome (h : exec (.legFq ra) s = .next t) : Outcome (.legFq ra) s t := by
  exact leg_outcome rfl h

theorem legFr_outcome (h : exec (.legFr ra) s = .next t) : Outcome (.legFr ra) s t := by
  exact leg_outcome rfl h

theorem sqrtFq_outcome (h : exec (.sqrtFq rd ra) s = .next t) : Outcome (.sqrtFq rd ra) s t := by
  exact sqrt_outcome rfl rfl Config.one_lt_q h

theorem sqrtFr_outcome (h : exec (.sqrtFr rd ra) s = .next t) : Outcome (.sqrtFr rd ra) s t := by
  exact sqrt_outcome rfl rfl Config.one_lt_r h

theorem redFq_outcome (h : exec (.redFq rd ra) s = .next t) : Outcome (.redFq rd ra) s t := by
  exact unary_outcome rfl rfl rawElem_form (primeElem_form _) (fun _ _ => Nat.mod_lt _ Config.q_pos) h

theorem redFr_outcome (h : exec (.redFr rd ra) s = .next t) : Outcome (.redFr rd ra) s t := by
  exact unary_outcome rfl rfl rawElem_form (primeElem_form _) (fun _ _ => Nat.mod_lt _ Config.r_pos) h

theorem zeroFq2_outcome (h : exec (.zeroFq2 rd) s = .next t) : Outcome (.zeroFq2 rd) s t := by
  exact const_outcome rfl rfl fq2Elem_form (fq2Zero_reduced Config.one_lt_q) h

theorem zeroFq6_outcome (h : exec (.zeroFq6 rd) s = .next t) : Outcome (.zeroFq6 rd) s t := by
  exact const_outcome rfl rfl fq6Elem_form (fq6Zero_reduced Config.one_lt_q) h

theorem zeroFq12_outcome (h : exec (.zeroFq12 rd) s = .next t) : Outcome (.zeroFq12 rd) s t := by
  exact const_outcome rfl rfl fq12Elem_form (fq12Zero_reduced Config.one_lt_q) h

theorem oneFq2_outcome (h : exec (.oneFq2 rd) s = .next t) : Outcome (.oneFq2 rd) s t := by
  exact const_outcome rfl rfl fq2Elem_form (fq2One_reduced Config.one_lt_q) h

theorem oneFq6_outcome (h : exec (.oneFq6 rd) s = .next t) : Outcome (.oneFq6 rd) s t := by
  exact const_outcome rfl rfl fq6Elem_form (fq6One_reduced Config.one_lt_q) h

theorem oneFq12_outcome (h : exec (.oneFq12 rd) s = .next t) : Outcome (.oneFq12 rd) s t := by
  exact const_outcome rfl rfl fq12Elem_form (fq12One_reduced Config.one_lt_q) h

theorem iszFq2_outcome (h : exec (.iszFq2 ra) s = .next t) : Outcome (.iszFq2 ra) s t := by
  change execIszFq2 ra s = _ at h
  unfold execIszFq2 at h
  exact test_outcome rfl rfl h

theorem iszFq6_outcome (h : exec (.iszFq6 ra) s = .next t) : Outcome (.iszFq6 ra) s t := by
  change execIszFq6 ra s = _ at h
  unfold execIszFq6 at h
  exact test_outcome rfl rfl h

theorem iszFq12_outcome (h : exec (.iszFq12 ra) s = .next t) : Outcome (.iszFq12 ra) s t := by
  change execIszFq12 ra s = _ at h
  unfold execIszFq12 at h
  exact test_outcome rfl rfl h

theorem isoneFq2_outcome (h : exec (.isoneFq2 ra) s = .next t) : Outcome (.isoneFq2 ra) s t := by
  change execIsoneFq2 ra s = _ at h
  unfold execIsoneFq2 at h
  exact test_outcome rfl rfl h

theorem isoneFq6_outcome (h : exec (.isoneFq6 ra) s = .next t) : Outcome (.isoneFq6 ra) s t := by
  change execIsoneFq6 ra s = _ at h
  unfold execIsoneFq6 at h
  exact test_outcome rfl rfl h

theorem isoneFq12_outcome (h : exec (.isoneFq12 ra) s = .next t) : Outcome (.isoneFq12 ra) s t := by
  change execIsoneFq12 ra s = _ at h
  unfold execIsoneFq12 at h
  exact test_outcome rfl rfl h

theorem eqFq2_outcome (h : exec (.eqFq2 ra rb) s = .next t) : Outcome (.eqFq2 ra rb) s t := by
  change execEqFq2 ra rb s = _ at h
  unfold execEqFq2 at h
  exact compare_outcome rfl rfl h

theorem eqFq6_outcome (h : exec (.eqFq6 ra rb) s = .next t) : Outcome (.eqFq6 ra rb) s t := by
  change execEqFq6 ra rb s = _ at h
  unfold execEqFq6 at h
  exact compare_outcome rfl rfl h

theorem eqFq12_outcome (h : exec (.eqFq12 ra rb) s = .next t) : Outcome (.eqFq12 ra rb) s t := by
  change execEqFq12 ra rb s = _ at h
  unfold execEqFq12 at h
  exact compare_outcome rfl rfl h

theorem addFq2_outcome (h : exec (.addFq2 rd ra rb) s = .next t) : Outcome (.addFq2 rd ra rb) s t := by
  exact binary_outcome rfl rfl fq2Elem_form fq2Elem_form fq2Elem_form
    (fun _ _ _ _ => fq2Add_reduced Config.one_lt_q _ _) h

theorem addFq6_outcome (h : exec (.addFq6 rd ra rb) s = .next t) : Outcome (.addFq6 rd ra rb) s t := by
  exact binary_outcome rfl rfl fq6Elem_form fq6Elem_form fq6Elem_form
    (fun _ _ _ _ => fq6Add_reduced Config.one_lt_q _ _) h

theorem addFq12_outcome (h : exec (.addFq12 rd ra rb) s = .next t) : Outcome (.addFq12 rd ra rb) s t := by
  exact binary_outcome rfl rfl fq12Elem_form fq12Elem_form fq12Elem_form
    (fun _ _ _ _ => fq12Add_reduced Config.one_lt_q _ _) h

theorem subFq2_outcome (h : exec (.subFq2 rd ra rb) s = .next t) : Outcome (.subFq2 rd ra rb) s t := by
  exact binary_outcome rfl rfl fq2Elem_form fq2Elem_form fq2Elem_form
    (fun _ _ _ _ => fq2Sub_reduced Config.one_lt_q _ _) h

theorem subFq6_outcome (h : exec (.subFq6 rd ra rb) s = .next t) : Outcome (.subFq6 rd ra rb) s t := by
  exact binary_outcome rfl rfl fq6Elem_form fq6Elem_form fq6Elem_form
    (fun _ _ _ _ => fq6Sub_reduced Config.one_lt_q _ _) h

theorem subFq12_outcome (h : exec (.subFq12 rd ra rb) s = .next t) : Outcome (.subFq12 rd ra rb) s t := by
  exact binary_outcome rfl rfl fq12Elem_form fq12Elem_form fq12Elem_form
    (fun _ _ _ _ => fq12Sub_reduced Config.one_lt_q _ _) h

theorem mulFq2_outcome (h : exec (.mulFq2 rd ra rb) s = .next t) : Outcome (.mulFq2 rd ra rb) s t := by
  exact binary_outcome rfl rfl fq2Elem_form fq2Elem_form fq2Elem_form
    (fun _ _ _ _ => fq2Mul_reduced Config.one_lt_q _ _) h

theorem mulFq6_outcome (h : exec (.mulFq6 rd ra rb) s = .next t) : Outcome (.mulFq6 rd ra rb) s t := by
  exact binary_outcome rfl rfl fq6Elem_form fq6Elem_form fq6Elem_form
    (fun _ _ _ _ => fq6Mul_reduced Config.one_lt_q _ _) h

theorem mulFq12_outcome (h : exec (.mulFq12 rd ra rb) s = .next t) : Outcome (.mulFq12 rd ra rb) s t := by
  exact binary_outcome rfl rfl fq12Elem_form fq12Elem_form fq12Elem_form
    (fun _ _ _ _ => fq12Mul_reduced Config.one_lt_q _ _) h

theorem negFq2_outcome (h : exec (.negFq2 rd ra) s = .next t) : Outcome (.negFq2 rd ra) s t := by
  exact unary_outcome rfl rfl fq2Elem_form fq2Elem_form (fun _ _ => fq2Neg_reduced Config.one_lt_q _) h

theorem negFq6_outcome (h : exec (.negFq6 rd ra) s = .next t) : Outcome (.negFq6 rd ra) s t := by
  exact unary_outcome rfl rfl fq6Elem_form fq6Elem_form (fun _ _ => fq6Neg_reduced Config.one_lt_q _) h

theorem negFq12_outcome (h : exec (.negFq12 rd ra) s = .next t) : Outcome (.negFq12 rd ra) s t := by
  exact unary_outcome rfl rfl fq12Elem_form fq12Elem_form (fun _ _ => fq12Neg_reduced Config.one_lt_q _) h

theorem dblFq2_outcome (h : exec (.dblFq2 rd ra) s = .next t) : Outcome (.dblFq2 rd ra) s t := by
  exact unary_outcome rfl rfl fq2Elem_form fq2Elem_form (fun _ _ => fq2Dbl_reduced Config.one_lt_q _) h

theorem dblFq6_outcome (h : exec (.dblFq6 rd ra) s = .next t) : Outcome (.dblFq6 rd ra) s t := by
  exact unary_outcome rfl rfl fq6Elem_form fq6Elem_form (fun _ _ => fq6Dbl_reduced Config.one_lt_q _) h

theorem dblFq12_outcome (h : exec (.dblFq12 rd ra) s = .next t) : Outcome (.dblFq12 rd ra) s t := by
  exact unary_outcome rfl rfl fq12Elem_form fq12Elem_form (fun _ _ => fq12Dbl_reduced Config.one_lt_q _) h

theorem sqrFq2_outcome (h : exec (.sqrFq2 rd ra) s = .next t) : Outcome (.sqrFq2 rd ra) s t := by
  exact unary_outcome rfl rfl fq2Elem_form fq2Elem_form (fun _ _ => fq2Sqr_reduced Config.one_lt_q _) h

theorem sqrFq6_outcome (h : exec (.sqrFq6 rd ra) s = .next t) : Outcome (.sqrFq6 rd ra) s t := by
  exact unary_outcome rfl rfl fq6Elem_form fq6Elem_form (fun _ _ => fq6Mul_reduced Config.one_lt_q _ _) h

theorem sqrFq12_outcome (h : exec (.sqrFq12 rd ra) s = .next t) : Outcome (.sqrFq12 rd ra) s t := by
  exact unary_outcome rfl rfl fq12Elem_form fq12Elem_form (fun _ _ => fq12Mul_reduced Config.one_lt_q _ _) h

theorem invFq2_outcome (h : exec (.invFq2 rd ra) s = .next t) : Outcome (.invFq2 rd ra) s t := by
  exact partialUnary_outcome rfl rfl fq2Elem_form fq2Elem_form (fun _ _ _ hb => fq2Inv_reduced Config.one_lt_q hb) h

theorem invFq6_outcome (h : exec (.invFq6 rd ra) s = .next t) : Outcome (.invFq6 rd ra) s t := by
  exact partialUnary_outcome rfl rfl fq6Elem_form fq6Elem_form (fun _ _ _ hb => fq6Inv_reduced Config.one_lt_q hb) h

theorem invFq12_outcome (h : exec (.invFq12 rd ra) s = .next t) : Outcome (.invFq12 rd ra) s t := by
  exact partialUnary_outcome rfl rfl fq12Elem_form fq12Elem_form
    (fun _ _ _ hb => fq12Inv_reduced Config.one_lt_q hb) h

theorem divFq2_outcome (h : exec (.divFq2 rd ra rb) s = .next t) : Outcome (.divFq2 rd ra rb) s t := by
  change execDivFq2 rd ra rb s = _ at h
  unfold execDivFq2 at h
  exact partialBinary_outcome rfl rfl fq2Elem_form fq2Elem_form fq2Elem_form
    (fun _ _ _ _ _ hc => divideBy_valid (fun _ _ => fq2Mul_reduced Config.one_lt_q _ _) hc) h

theorem divFq6_outcome (h : exec (.divFq6 rd ra rb) s = .next t) : Outcome (.divFq6 rd ra rb) s t := by
  change execDivFq6 rd ra rb s = _ at h
  unfold execDivFq6 at h
  exact partialBinary_outcome rfl rfl fq6Elem_form fq6Elem_form fq6Elem_form
    (fun _ _ _ _ _ hc => divideBy_valid (fun _ _ => fq6Mul_reduced Config.one_lt_q _ _) hc) h

theorem divFq12_outcome (h : exec (.divFq12 rd ra rb) s = .next t) : Outcome (.divFq12 rd ra rb) s t := by
  change execDivFq12 rd ra rb s = _ at h
  unfold execDivFq12 at h
  exact partialBinary_outcome rfl rfl fq12Elem_form fq12Elem_form fq12Elem_form
    (fun _ _ _ _ _ hc => divideBy_valid (fun _ _ => fq12Mul_reduced Config.one_lt_q _ _) hc) h

theorem powFq2_outcome (h : exec (.powFq2 rd ra rb) s = .next t) : Outcome (.powFq2 rd ra rb) s t := by
  exact binary_outcome rfl rfl fq2Elem_form rawElem_form fq2Elem_form
    (fun _ _ _ _ => fq2Pow_reduced Config.one_lt_q _ _) h

theorem powFq6_outcome (h : exec (.powFq6 rd ra rb) s = .next t) : Outcome (.powFq6 rd ra rb) s t := by
  exact binary_outcome rfl rfl fq6Elem_form rawElem_form fq6Elem_form
    (fun _ _ _ _ => fq6Pow_reduced Config.one_lt_q _ _) h

theorem powFq12_outcome (h : exec (.powFq12 rd ra rb) s = .next t) : Outcome (.powFq12 rd ra rb) s t := by
  exact binary_outcome rfl rfl fq12Elem_form rawElem_form fq12Elem_form
    (fun _ _ _ _ => fq12Pow_reduced Config.one_lt_q _ _) h

theorem sopFq2_outcome (h : exec (.sopFq2 rd ra rb n) s = .next t) : Outcome (.sopFq2 rd ra rb n) s t := by
  exact sop_outcome rfl rfl fq2Elem_form
    (fun as bs => sumOfProducts_induction (Fq2.Reduced _) (fq2Zero_reduced Config.one_lt_q) (fun _ _ => fq2Add_reduced Config.one_lt_q _ _) as bs) h

theorem sopFq6_outcome (h : exec (.sopFq6 rd ra rb n) s = .next t) : Outcome (.sopFq6 rd ra rb n) s t := by
  exact sop_outcome rfl rfl fq6Elem_form
    (fun as bs => sumOfProducts_induction (Fq6.Reduced _) (fq6Zero_reduced Config.one_lt_q) (fun _ _ => fq6Add_reduced Config.one_lt_q _ _) as bs) h

theorem sopFq12_outcome (h : exec (.sopFq12 rd ra rb n) s = .next t) : Outcome (.sopFq12 rd ra rb n) s t := by
  exact sop_outcome rfl rfl fq12Elem_form
    (fun as bs => sumOfProducts_induction (Fq12.Reduced _) (fq12Zero_reduced Config.one_lt_q) (fun _ _ => fq12Add_reduced Config.one_lt_q _ _) as bs) h

theorem frobFq2_outcome (h : exec (.frobFq2 rd ra k) s = .next t) : Outcome (.frobFq2 rd ra k) s t := by
  exact unary_outcome rfl rfl fq2Elem_form fq2Elem_form (fun _ ha => fq2Frob_reduced Config.one_lt_q ha _) h

theorem frobFq6_outcome (h : exec (.frobFq6 rd ra k) s = .next t) : Outcome (.frobFq6 rd ra k) s t := by
  exact unary_outcome rfl rfl fq6Elem_form fq6Elem_form (fun _ ha => fq6Frob_reduced Config.one_lt_q ha _) h

theorem frobFq12_outcome (h : exec (.frobFq12 rd ra k) s = .next t) : Outcome (.frobFq12 rd ra k) s t := by
  exact unary_outcome rfl rfl fq12Elem_form fq12Elem_form (fun _ ha => fq12Frob_reduced Config.one_lt_q ha _) h

theorem mulnrFq_outcome (h : exec (.mulnrFq rd ra) s = .next t) : Outcome (.mulnrFq rd ra) s t := by
  exact unary_outcome rfl rfl (primeElem_form _) (primeElem_form _) (fun _ _ => mulMod_lt Config.q_pos _ _) h

theorem mulnrFq2_outcome (h : exec (.mulnrFq2 rd ra) s = .next t) : Outcome (.mulnrFq2 rd ra) s t := by
  exact unary_outcome rfl rfl fq2Elem_form fq2Elem_form (fun _ _ => fq2Mul_reduced Config.one_lt_q _ _) h

theorem mulnrFq6_outcome (h : exec (.mulnrFq6 rd ra) s = .next t) : Outcome (.mulnrFq6 rd ra) s t := by
  exact unary_outcome rfl rfl fq6Elem_form fq6Elem_form (fun _ _ => fq6Mul_reduced Config.one_lt_q _ _) h

theorem mul01Fq6_outcome (h : exec (.mul01Fq6 rd ra rb) s = .next t) : Outcome (.mul01Fq6 rd ra rb) s t := by
  exact binary_outcome rfl rfl fq6Elem_form sparsePairElem_form fq6Elem_form
    (fun _ _ _ _ => fq6Mul_reduced Config.one_lt_q _ _) h

theorem mul014Fq12_outcome (h : exec (.mul014Fq12 rd ra rb) s = .next t) : Outcome (.mul014Fq12 rd ra rb) s t := by
  exact binary_outcome rfl rfl fq12Elem_form sparseTripleElem_form fq12Elem_form
    (fun _ _ _ _ => fq12Mul_reduced Config.one_lt_q _ _) h

theorem mul034Fq12_outcome (h : exec (.mul034Fq12 rd ra rb) s = .next t) : Outcome (.mul034Fq12 rd ra rb) s t := by
  exact binary_outcome rfl rfl fq12Elem_form sparseTripleElem_form fq12Elem_form
    (fun _ _ _ _ => fq12Mul_reduced Config.one_lt_q _ _) h

theorem pzero_outcome (h : exec (.pzero rd) s = .next t) : Outcome (.pzero rd) s t := by
  exact const_outcome rfl rfl jacElem_form (jacIdentity_reduced Config.one_lt_q) h

theorem pisz_outcome (h : exec (.pisz ra) s = .next t) : Outcome (.pisz ra) s t := by
  change execPisz ra s = _ at h
  unfold execPisz at h
  exact test_outcome rfl rfl h

theorem aisz_outcome (h : exec (.aisz ra) s = .next t) : Outcome (.aisz ra) s t := by
  change execAisz ra s = _ at h
  unfold execAisz at h
  exact test_outcome rfl rfl h

theorem pdbl_outcome (h : exec (.pdbl rd ra) s = .next t) : Outcome (.pdbl rd ra) s t := by
  exact unary_outcome rfl rfl jacElem_form jacElem_form (fun _ hP => jacDouble_reduced Config.one_lt_q hP) h

theorem padd_outcome (h : exec (.padd rd ra rb) s = .next t) : Outcome (.padd rd ra rb) s t := by
  exact binary_outcome rfl rfl jacElem_form jacElem_form jacElem_form
    (fun _ _ hP hQ => jacAdd_reduced Config.one_lt_q hP hQ) h

theorem paddm_outcome (h : exec (.paddm rd ra rb) s = .next t) : Outcome (.paddm rd ra rb) s t := by
  exact binary_outcome rfl rfl jacElem_form affElem_form jacElem_form
    (fun _ _ hP hQ => jacAddMixed_reduced Config.one_lt_q hP hQ) h

theorem aneg_outcome (h : exec (.aneg rd ra) s = .next t) : Outcome (.aneg rd ra) s t := by
  exact unary_outcome rfl rfl affElem_form affElem_form (fun _ hP => affNeg_reduced Config.one_lt_q hP) h

theorem peq_outcome (h : exec (.peq ra rb) s = .next t) : Outcome (.peq ra rb) s t := by
  change execPeq ra rb s = _ at h
  unfold execPeq at h
  exact compare_outcome rfl rfl h

theorem a2p_outcome (h : exec (.a2p rd ra) s = .next t) : Outcome (.a2p rd ra) s t := by
  exact unary_outcome rfl rfl affElem_form jacElem_form (fun _ hP => toJacobian_reduced Config.one_lt_q hP) h

theorem p2a_outcome (h : exec (.p2a rd ra) s = .next t) : Outcome (.p2a rd ra) s t := by
  exact unary_outcome rfl rfl jacElem_form affElem_form (fun _ hP => toAffine_reduced Config.one_lt_q hP) h

theorem pgen_outcome (h : exec (.pgen rd) s = .next t) : Outcome (.pgen rd) s t := by
  exact const_outcome rfl rfl affElem_form ⟨Config.params_wellFormed.genX_lt, Config.params_wellFormed.genY_lt, Nat.zero_le _⟩  h

theorem cof_outcome (h : exec (.cof rd) s = .next t) : Outcome (.cof rd) s t := by
  exact const_outcome rfl rfl rawElem_form trivial h

theorem pmuln_outcome (h : exec (.pmuln rd ra rb) s = .next t) : Outcome (.pmuln rd ra rb) s t := by
  exact binary_outcome rfl rfl jacElem_form rawElem_form jacElem_form
    (fun _ _ hP _ => naiveMul_reduced Config.one_lt_q hP _) h

theorem pmul_outcome (h : exec (.pmul rd ra rb) s = .next t) : Outcome (.pmul rd ra rb) s t := by
  exact binary_outcome rfl rfl jacElem_form (primeElem_form _) jacElem_form
    (fun _ _ hP _ => glvMul_reduced Config.one_lt_q hP _) h

end

/-- All `exec` can answer with a next state. -/
theorem exec_outcome {i : Instr} {s t : State} (h : exec i s = .next t) : Outcome i s t := by
  cases i with
  | nop => exact nop_outcome h
  | ld rd => exact ld_outcome h
  | st ra => exact st_outcome h
  | mov rd ra n => exact mov_outcome h
  | ldi rd imm => exact ldi_outcome h
  | zeroFq rd => exact zeroFq_outcome h
  | zeroFr rd => exact zeroFr_outcome h
  | oneFq rd => exact oneFq_outcome h
  | oneFr rd => exact oneFr_outcome h
  | iszFq ra => exact iszFq_outcome h
  | iszFr ra => exact iszFr_outcome h
  | isoneFq ra => exact isoneFq_outcome h
  | isoneFr ra => exact isoneFr_outcome h
  | eqFq ra rb => exact eqFq_outcome h
  | eqFr ra rb => exact eqFr_outcome h
  | addFq rd ra rb => exact addFq_outcome h
  | addFr rd ra rb => exact addFr_outcome h
  | subFq rd ra rb => exact subFq_outcome h
  | subFr rd ra rb => exact subFr_outcome h
  | mulFq rd ra rb => exact mulFq_outcome h
  | mulFr rd ra rb => exact mulFr_outcome h
  | negFq rd ra => exact negFq_outcome h
  | negFr rd ra => exact negFr_outcome h
  | dblFq rd ra => exact dblFq_outcome h
  | dblFr rd ra => exact dblFr_outcome h
  | sqrFq rd ra => exact sqrFq_outcome h
  | sqrFr rd ra => exact sqrFr_outcome h
  | invFq rd ra => exact invFq_outcome h
  | invFr rd ra => exact invFr_outcome h
  | divFq rd ra rb => exact divFq_outcome h
  | divFr rd ra rb => exact divFr_outcome h
  | powFq rd ra rb => exact powFq_outcome h
  | powFr rd ra rb => exact powFr_outcome h
  | sopFq rd ra rb n => exact sopFq_outcome h
  | sopFr rd ra rb n => exact sopFr_outcome h
  | charFq rd => exact charFq_outcome h
  | charFr rd => exact charFr_outcome h
  | legFq ra => exact legFq_outcome h
  | legFr ra => exact legFr_outcome h
  | sqrtFq rd ra => exact sqrtFq_outcome h
  | sqrtFr rd ra => exact sqrtFr_outcome h
  | redFq rd ra => exact redFq_outcome h
  | redFr rd ra => exact redFr_outcome h
  | zeroFq2 rd => exact zeroFq2_outcome h
  | zeroFq6 rd => exact zeroFq6_outcome h
  | zeroFq12 rd => exact zeroFq12_outcome h
  | oneFq2 rd => exact oneFq2_outcome h
  | oneFq6 rd => exact oneFq6_outcome h
  | oneFq12 rd => exact oneFq12_outcome h
  | iszFq2 ra => exact iszFq2_outcome h
  | iszFq6 ra => exact iszFq6_outcome h
  | iszFq12 ra => exact iszFq12_outcome h
  | isoneFq2 ra => exact isoneFq2_outcome h
  | isoneFq6 ra => exact isoneFq6_outcome h
  | isoneFq12 ra => exact isoneFq12_outcome h
  | eqFq2 ra rb => exact eqFq2_outcome h
  | eqFq6 ra rb => exact eqFq6_outcome h
  | eqFq12 ra rb => exact eqFq12_outcome h
  | addFq2 rd ra rb => exact addFq2_outcome h
  | addFq6 rd ra rb => exact addFq6_outcome h
  | addFq12 rd ra rb => exact addFq12_outcome h
  | subFq2 rd ra rb => exact subFq2_outcome h
  | subFq6 rd ra rb => exact subFq6_outcome h
  | subFq12 rd ra rb => exact subFq12_outcome h
  | mulFq2 rd ra rb => exact mulFq2_outcome h
  | mulFq6 rd ra rb => exact mulFq6_outcome h
  | mulFq12 rd ra rb => exact mulFq12_outcome h
  | negFq2 rd ra => exact negFq2_outcome h
  | negFq6 rd ra => exact negFq6_outcome h
  | negFq12 rd ra => exact negFq12_outcome h
  | dblFq2 rd ra => exact dblFq2_outcome h
  | dblFq6 rd ra => exact dblFq6_outcome h
  | dblFq12 rd ra => exact dblFq12_outcome h
  | sqrFq2 rd ra => exact sqrFq2_outcome h
  | sqrFq6 rd ra => exact sqrFq6_outcome h
  | sqrFq12 rd ra => exact sqrFq12_outcome h
  | invFq2 rd ra => exact invFq2_outcome h
  | invFq6 rd ra => exact invFq6_outcome h
  | invFq12 rd ra => exact invFq12_outcome h
  | divFq2 rd ra rb => exact divFq2_outcome h
  | divFq6 rd ra rb => exact divFq6_outcome h
  | divFq12 rd ra rb => exact divFq12_outcome h
  | powFq2 rd ra rb => exact powFq2_outcome h
  | powFq6 rd ra rb => exact powFq6_outcome h
  | powFq12 rd ra rb => exact powFq12_outcome h
  | sopFq2 rd ra rb n => exact sopFq2_outcome h
  | sopFq6 rd ra rb n => exact sopFq6_outcome h
  | sopFq12 rd ra rb n => exact sopFq12_outcome h
  | frobFq2 rd ra k => exact frobFq2_outcome h
  | frobFq6 rd ra k => exact frobFq6_outcome h
  | frobFq12 rd ra k => exact frobFq12_outcome h
  | mulnrFq rd ra => exact mulnrFq_outcome h
  | mulnrFq2 rd ra => exact mulnrFq2_outcome h
  | mulnrFq6 rd ra => exact mulnrFq6_outcome h
  | mul01Fq6 rd ra rb => exact mul01Fq6_outcome h
  | mul014Fq12 rd ra rb => exact mul014Fq12_outcome h
  | mul034Fq12 rd ra rb => exact mul034Fq12_outcome h
  | cycsqrFq12 rd ra => exact cycsqr_outcome h
  | cycexpFq12 rd ra rb => exact cycexp_outcome h
  | pzero rd => exact pzero_outcome h
  | pisz ra => exact pisz_outcome h
  | aisz ra => exact aisz_outcome h
  | pdbl rd ra => exact pdbl_outcome h
  | padd rd ra rb => exact padd_outcome h
  | paddm rd ra rb => exact paddm_outcome h
  | aneg rd ra => exact aneg_outcome h
  | peq ra rb => exact peq_outcome h
  | a2p rd ra => exact a2p_outcome h
  | p2a rd ra => exact p2a_outcome h
  | bnorm rd n => exact bnorm_outcome h
  | pgen rd => exact pgen_outcome h
  | cof rd => exact cof_outcome h
  | pdec rd ra sign => exact pdec_outcome h
  | pmuln rd ra rb => exact pmuln_outcome h
  | pmul rd ra rb => exact pmul_outcome h

end Sys2Proof.Machine
end

