-- ==== Sys2Proof/Laws/PerInstr.lean ====
section
/-! SUPPORT. The per-instruction families, one lemma per constructor of `Instr`. -/

namespace Sys2Proof.Laws

/-- The row of an instruction reads its own fields back: every operand, at every value a legal word carries (R52 to
R55). -/
def ReadBack.Statement (i : Instr) : Prop := i.wellFormed = true → decodeFields (instrFields i) = .ok i

theorem ReadBack.nop : ReadBack.Statement .nop := fun _ => rfl
theorem ReadBack.ld (rd : CellIdx) : ReadBack.Statement (.ld rd) := fun _ => rfl
theorem ReadBack.st (ra : CellIdx) : ReadBack.Statement (.st ra) := fun _ => rfl
theorem ReadBack.mov (rd ra : CellIdx) (n : Imm) : ReadBack.Statement (.mov rd ra n) := fun _ => rfl
theorem ReadBack.ldi (rd : CellIdx) (imm : Imm) : ReadBack.Statement (.ldi rd imm) := fun _ => rfl
theorem ReadBack.zeroFq (rd : CellIdx) : ReadBack.Statement (.zeroFq rd) := fun _ => rfl
theorem ReadBack.zeroFr (rd : CellIdx) : ReadBack.Statement (.zeroFr rd) := fun _ => rfl
theorem ReadBack.oneFq (rd : CellIdx) : ReadBack.Statement (.oneFq rd) := fun _ => rfl
theorem ReadBack.oneFr (rd : CellIdx) : ReadBack.Statement (.oneFr rd) := fun _ => rfl
theorem ReadBack.iszFq (ra : CellIdx) : ReadBack.Statement (.iszFq ra) := fun _ => rfl
theorem ReadBack.iszFr (ra : CellIdx) : ReadBack.Statement (.iszFr ra) := fun _ => rfl
theorem ReadBack.isoneFq (ra : CellIdx) : ReadBack.Statement (.isoneFq ra) := fun _ => rfl
theorem ReadBack.isoneFr (ra : CellIdx) : ReadBack.Statement (.isoneFr ra) := fun _ => rfl
theorem ReadBack.eqFq (ra rb : CellIdx) : ReadBack.Statement (.eqFq ra rb) := fun _ => rfl
theorem ReadBack.eqFr (ra rb : CellIdx) : ReadBack.Statement (.eqFr ra rb) := fun _ => rfl
theorem ReadBack.addFq (rd ra rb : CellIdx) : ReadBack.Statement (.addFq rd ra rb) := fun _ => rfl
theorem ReadBack.addFr (rd ra rb : CellIdx) : ReadBack.Statement (.addFr rd ra rb) := fun _ => rfl
theorem ReadBack.subFq (rd ra rb : CellIdx) : ReadBack.Statement (.subFq rd ra rb) := fun _ => rfl
theorem ReadBack.subFr (rd ra rb : CellIdx) : ReadBack.Statement (.subFr rd ra rb) := fun _ => rfl
theorem ReadBack.mulFq (rd ra rb : CellIdx) : ReadBack.Statement (.mulFq rd ra rb) := fun _ => rfl
theorem ReadBack.mulFr (rd ra rb : CellIdx) : ReadBack.Statement (.mulFr rd ra rb) := fun _ => rfl
theorem ReadBack.negFq (rd ra : CellIdx) : ReadBack.Statement (.negFq rd ra) := fun _ => rfl
theorem ReadBack.negFr (rd ra : CellIdx) : ReadBack.Statement (.negFr rd ra) := fun _ => rfl
theorem ReadBack.dblFq (rd ra : CellIdx) : ReadBack.Statement (.dblFq rd ra) := fun _ => rfl
theorem ReadBack.dblFr (rd ra : CellIdx) : ReadBack.Statement (.dblFr rd ra) := fun _ => rfl
theorem ReadBack.sqrFq (rd ra : CellIdx) : ReadBack.Statement (.sqrFq rd ra) := fun _ => rfl
theorem ReadBack.sqrFr (rd ra : CellIdx) : ReadBack.Statement (.sqrFr rd ra) := fun _ => rfl
theorem ReadBack.invFq (rd ra : CellIdx) : ReadBack.Statement (.invFq rd ra) := fun _ => rfl
theorem ReadBack.invFr (rd ra : CellIdx) : ReadBack.Statement (.invFr rd ra) := fun _ => rfl
theorem ReadBack.divFq (rd ra rb : CellIdx) : ReadBack.Statement (.divFq rd ra rb) := fun _ => rfl
theorem ReadBack.divFr (rd ra rb : CellIdx) : ReadBack.Statement (.divFr rd ra rb) := fun _ => rfl
theorem ReadBack.powFq (rd ra rb : CellIdx) : ReadBack.Statement (.powFq rd ra rb) := fun _ => rfl
theorem ReadBack.powFr (rd ra rb : CellIdx) : ReadBack.Statement (.powFr rd ra rb) := fun _ => rfl
theorem ReadBack.sopFq (rd ra rb : CellIdx) (n : Imm) : ReadBack.Statement (.sopFq rd ra rb n) := fun _ => rfl
theorem ReadBack.sopFr (rd ra rb : CellIdx) (n : Imm) : ReadBack.Statement (.sopFr rd ra rb n) := fun _ => rfl
theorem ReadBack.charFq (rd : CellIdx) : ReadBack.Statement (.charFq rd) := fun _ => rfl
theorem ReadBack.charFr (rd : CellIdx) : ReadBack.Statement (.charFr rd) := fun _ => rfl
theorem ReadBack.legFq (ra : CellIdx) : ReadBack.Statement (.legFq ra) := fun _ => rfl
theorem ReadBack.legFr (ra : CellIdx) : ReadBack.Statement (.legFr ra) := fun _ => rfl
theorem ReadBack.sqrtFq (rd ra : CellIdx) : ReadBack.Statement (.sqrtFq rd ra) := fun _ => rfl
theorem ReadBack.sqrtFr (rd ra : CellIdx) : ReadBack.Statement (.sqrtFr rd ra) := fun _ => rfl
theorem ReadBack.redFq (rd ra : CellIdx) : ReadBack.Statement (.redFq rd ra) := fun _ => rfl
theorem ReadBack.redFr (rd ra : CellIdx) : ReadBack.Statement (.redFr rd ra) := fun _ => rfl
theorem ReadBack.zeroFq2 (rd : CellIdx) : ReadBack.Statement (.zeroFq2 rd) := fun _ => rfl
theorem ReadBack.zeroFq6 (rd : CellIdx) : ReadBack.Statement (.zeroFq6 rd) := fun _ => rfl
theorem ReadBack.zeroFq12 (rd : CellIdx) : ReadBack.Statement (.zeroFq12 rd) := fun _ => rfl
theorem ReadBack.oneFq2 (rd : CellIdx) : ReadBack.Statement (.oneFq2 rd) := fun _ => rfl
theorem ReadBack.oneFq6 (rd : CellIdx) : ReadBack.Statement (.oneFq6 rd) := fun _ => rfl
theorem ReadBack.oneFq12 (rd : CellIdx) : ReadBack.Statement (.oneFq12 rd) := fun _ => rfl
theorem ReadBack.iszFq2 (ra : CellIdx) : ReadBack.Statement (.iszFq2 ra) := fun _ => rfl
theorem ReadBack.iszFq6 (ra : CellIdx) : ReadBack.Statement (.iszFq6 ra) := fun _ => rfl
theorem ReadBack.iszFq12 (ra : CellIdx) : ReadBack.Statement (.iszFq12 ra) := fun _ => rfl
theorem ReadBack.isoneFq2 (ra : CellIdx) : ReadBack.Statement (.isoneFq2 ra) := fun _ => rfl
theorem ReadBack.isoneFq6 (ra : CellIdx) : ReadBack.Statement (.isoneFq6 ra) := fun _ => rfl
theorem ReadBack.isoneFq12 (ra : CellIdx) : ReadBack.Statement (.isoneFq12 ra) := fun _ => rfl
theorem ReadBack.eqFq2 (ra rb : CellIdx) : ReadBack.Statement (.eqFq2 ra rb) := fun _ => rfl
theorem ReadBack.eqFq6 (ra rb : CellIdx) : ReadBack.Statement (.eqFq6 ra rb) := fun _ => rfl
theorem ReadBack.eqFq12 (ra rb : CellIdx) : ReadBack.Statement (.eqFq12 ra rb) := fun _ => rfl
theorem ReadBack.addFq2 (rd ra rb : CellIdx) : ReadBack.Statement (.addFq2 rd ra rb) := fun _ => rfl
theorem ReadBack.addFq6 (rd ra rb : CellIdx) : ReadBack.Statement (.addFq6 rd ra rb) := fun _ => rfl
theorem ReadBack.addFq12 (rd ra rb : CellIdx) : ReadBack.Statement (.addFq12 rd ra rb) := fun _ => rfl
theorem ReadBack.subFq2 (rd ra rb : CellIdx) : ReadBack.Statement (.subFq2 rd ra rb) := fun _ => rfl
theorem ReadBack.subFq6 (rd ra rb : CellIdx) : ReadBack.Statement (.subFq6 rd ra rb) := fun _ => rfl
theorem ReadBack.subFq12 (rd ra rb : CellIdx) : ReadBack.Statement (.subFq12 rd ra rb) := fun _ => rfl
theorem ReadBack.mulFq2 (rd ra rb : CellIdx) : ReadBack.Statement (.mulFq2 rd ra rb) := fun _ => rfl
theorem ReadBack.mulFq6 (rd ra rb : CellIdx) : ReadBack.Statement (.mulFq6 rd ra rb) := fun _ => rfl
theorem ReadBack.mulFq12 (rd ra rb : CellIdx) : ReadBack.Statement (.mulFq12 rd ra rb) := fun _ => rfl
theorem ReadBack.negFq2 (rd ra : CellIdx) : ReadBack.Statement (.negFq2 rd ra) := fun _ => rfl
theorem ReadBack.negFq6 (rd ra : CellIdx) : ReadBack.Statement (.negFq6 rd ra) := fun _ => rfl
theorem ReadBack.negFq12 (rd ra : CellIdx) : ReadBack.Statement (.negFq12 rd ra) := fun _ => rfl
theorem ReadBack.dblFq2 (rd ra : CellIdx) : ReadBack.Statement (.dblFq2 rd ra) := fun _ => rfl
theorem ReadBack.dblFq6 (rd ra : CellIdx) : ReadBack.Statement (.dblFq6 rd ra) := fun _ => rfl
theorem ReadBack.dblFq12 (rd ra : CellIdx) : ReadBack.Statement (.dblFq12 rd ra) := fun _ => rfl
theorem ReadBack.sqrFq2 (rd ra : CellIdx) : ReadBack.Statement (.sqrFq2 rd ra) := fun _ => rfl
theorem ReadBack.sqrFq6 (rd ra : CellIdx) : ReadBack.Statement (.sqrFq6 rd ra) := fun _ => rfl
theorem ReadBack.sqrFq12 (rd ra : CellIdx) : ReadBack.Statement (.sqrFq12 rd ra) := fun _ => rfl
theorem ReadBack.invFq2 (rd ra : CellIdx) : ReadBack.Statement (.invFq2 rd ra) := fun _ => rfl
theorem ReadBack.invFq6 (rd ra : CellIdx) : ReadBack.Statement (.invFq6 rd ra) := fun _ => rfl
theorem ReadBack.invFq12 (rd ra : CellIdx) : ReadBack.Statement (.invFq12 rd ra) := fun _ => rfl
theorem ReadBack.divFq2 (rd ra rb : CellIdx) : ReadBack.Statement (.divFq2 rd ra rb) := fun _ => rfl
theorem ReadBack.divFq6 (rd ra rb : CellIdx) : ReadBack.Statement (.divFq6 rd ra rb) := fun _ => rfl
theorem ReadBack.divFq12 (rd ra rb : CellIdx) : ReadBack.Statement (.divFq12 rd ra rb) := fun _ => rfl
theorem ReadBack.powFq2 (rd ra rb : CellIdx) : ReadBack.Statement (.powFq2 rd ra rb) := fun _ => rfl
theorem ReadBack.powFq6 (rd ra rb : CellIdx) : ReadBack.Statement (.powFq6 rd ra rb) := fun _ => rfl
theorem ReadBack.powFq12 (rd ra rb : CellIdx) : ReadBack.Statement (.powFq12 rd ra rb) := fun _ => rfl
theorem ReadBack.sopFq2 (rd ra rb : CellIdx) (n : Imm) : ReadBack.Statement (.sopFq2 rd ra rb n) := fun _ => rfl
theorem ReadBack.sopFq6 (rd ra rb : CellIdx) (n : Imm) : ReadBack.Statement (.sopFq6 rd ra rb n) := fun _ => rfl
theorem ReadBack.sopFq12 (rd ra rb : CellIdx) (n : Imm) : ReadBack.Statement (.sopFq12 rd ra rb n) := fun _ => rfl
theorem ReadBack.frobFq2 (rd ra : CellIdx) (k : Imm) : ReadBack.Statement (.frobFq2 rd ra k) := fun _ => rfl
theorem ReadBack.frobFq6 (rd ra : CellIdx) (k : Imm) : ReadBack.Statement (.frobFq6 rd ra k) := fun _ => rfl
theorem ReadBack.frobFq12 (rd ra : CellIdx) (k : Imm) : ReadBack.Statement (.frobFq12 rd ra k) := fun _ => rfl
theorem ReadBack.mulnrFq (rd ra : CellIdx) : ReadBack.Statement (.mulnrFq rd ra) := fun _ => rfl
theorem ReadBack.mulnrFq2 (rd ra : CellIdx) : ReadBack.Statement (.mulnrFq2 rd ra) := fun _ => rfl
theorem ReadBack.mulnrFq6 (rd ra : CellIdx) : ReadBack.Statement (.mulnrFq6 rd ra) := fun _ => rfl
theorem ReadBack.mul01Fq6 (rd ra rb : CellIdx) : ReadBack.Statement (.mul01Fq6 rd ra rb) := fun _ => rfl
theorem ReadBack.mul014Fq12 (rd ra rb : CellIdx) : ReadBack.Statement (.mul014Fq12 rd ra rb) := fun _ => rfl
theorem ReadBack.mul034Fq12 (rd ra rb : CellIdx) : ReadBack.Statement (.mul034Fq12 rd ra rb) := fun _ => rfl
theorem ReadBack.cycsqrFq12 (rd ra : CellIdx) : ReadBack.Statement (.cycsqrFq12 rd ra) := fun _ => rfl
theorem ReadBack.cycexpFq12 (rd ra rb : CellIdx) : ReadBack.Statement (.cycexpFq12 rd ra rb) := fun _ => rfl
theorem ReadBack.pzero (rd : CellIdx) : ReadBack.Statement (.pzero rd) := fun _ => rfl
theorem ReadBack.pisz (ra : CellIdx) : ReadBack.Statement (.pisz ra) := fun _ => rfl
theorem ReadBack.aisz (ra : CellIdx) : ReadBack.Statement (.aisz ra) := fun _ => rfl
theorem ReadBack.pdbl (rd ra : CellIdx) : ReadBack.Statement (.pdbl rd ra) := fun _ => rfl
theorem ReadBack.padd (rd ra rb : CellIdx) : ReadBack.Statement (.padd rd ra rb) := fun _ => rfl
theorem ReadBack.paddm (rd ra rb : CellIdx) : ReadBack.Statement (.paddm rd ra rb) := fun _ => rfl
theorem ReadBack.aneg (rd ra : CellIdx) : ReadBack.Statement (.aneg rd ra) := fun _ => rfl
theorem ReadBack.peq (ra rb : CellIdx) : ReadBack.Statement (.peq ra rb) := fun _ => rfl
theorem ReadBack.a2p (rd ra : CellIdx) : ReadBack.Statement (.a2p rd ra) := fun _ => rfl
theorem ReadBack.p2a (rd ra : CellIdx) : ReadBack.Statement (.p2a rd ra) := fun _ => rfl
theorem ReadBack.bnorm (rd : CellIdx) (n : Imm) : ReadBack.Statement (.bnorm rd n) := fun _ => rfl
theorem ReadBack.pgen (rd : CellIdx) : ReadBack.Statement (.pgen rd) := fun _ => rfl
theorem ReadBack.cof (rd : CellIdx) : ReadBack.Statement (.cof rd) := fun _ => rfl
theorem ReadBack.pdec (rd ra : CellIdx) (sign : Imm) : ReadBack.Statement (.pdec rd ra sign) := by
  intro h
  have hs : sign.toNat ≤ 1 := by simpa [Instr.wellFormed, signSelectorOk] using h
  show (if sign.toNat ≤ 1 then _ else _) = _
  rw [if_pos hs]; rfl
theorem ReadBack.pmuln (rd ra rb : CellIdx) : ReadBack.Statement (.pmuln rd ra rb) := fun _ => rfl
theorem ReadBack.pmul (rd ra rb : CellIdx) : ReadBack.Statement (.pmul rd ra rb) := fun _ => rfl

end Sys2Proof.Laws
end

