-- ==== Sys2Proof/Laws/Tower.lean ====
section
/-! SUPPORT. The value functions in a ring: each is the ring operation it is named after, in every commutative ring where
the modulus is 0 and, for the tower, the three polynomials have roots (42_extension_tower.md R140). -/

namespace Sys2Proof.Machine

section
variable {R : Type} [CommRing R] {m : Nat}

/-- A remainder is the number itself where the modulus is 0. -/
theorem cast_mod (h : (m : R) = 0) (a : Nat) : ((a % m : Nat) : R) = a := by
  conv_rhs => rw [← Nat.div_add_mod a m]
  push_cast
  rw [h]; ring

theorem cast_addMod (h : (m : R) = 0) (a b : Nat) : ((addMod m a b : Nat) : R) = a + b := by
  rw [addMod, cast_mod h]; push_cast; ring

theorem cast_subMod (h : (m : R) = 0) (a : Nat) {b : Nat} (hb : b < m) : ((subMod m a b : Nat) : R) = a - b := by
  rw [subMod, cast_mod h, Nat.cast_sub (by omega)]; push_cast; rw [h]; ring

theorem cast_negMod (h : (m : R) = 0) {a : Nat} (ha : a < m) : ((negMod m a : Nat) : R) = -a := by
  rw [negMod, cast_mod h, Nat.cast_sub ha.le, h]; ring

theorem cast_dblMod (h : (m : R) = 0) (a : Nat) : ((dblMod m a : Nat) : R) = 2 * a := by
  rw [dblMod, cast_addMod h]; ring

theorem cast_mulMod (h : (m : R) = 0) (a b : Nat) : ((mulMod m a b : Nat) : R) = a * b := by
  rw [mulMod, cast_mod h]; push_cast; ring

theorem cast_sqrMod (h : (m : R) = 0) (a : Nat) : ((sqrMod m a : Nat) : R) = (a : R) ^ 2 := by
  rw [sqrMod, cast_mulMod h]; ring

end

/-- Square-and-multiply is the power wherever the product is. -/
theorem map_powLoop {α R : Type} [CommRing R] (f : α → R) {mul : α → α → α} (hmul : ∀ a b, f (mul a b) = f a * f b)
    (a : α) (e n : Nat) (x : α) : f (powLoop mul a e n x) = f x ^ 2 ^ n * f a ^ (e % 2 ^ n) := by
  induction n generalizing x with
  | zero => simp [powLoop, Nat.mod_one]
  | succ n ih =>
    rw [powLoop, ih]
    rw [Nat.mod_pow_succ, Nat.testBit_eq_decide_div_mod_eq]
    rcases Nat.mod_two_eq_zero_or_one (e / 2 ^ n) with hb | hb <;> simp [hb, hmul] <;> ring

/-- `powBy` is the power. -/
theorem map_powBy {α R : Type} [CommRing R] (f : α → R) {mul : α → α → α} (hmul : ∀ a b, f (mul a b) = f a * f b)
    {one : α} (hone : f one = 1) (a : α) (e : Nat) : f (powBy mul one a e) = f a ^ e := by
  have hlt : e < 2 ^ bitLen e := by
    unfold bitLen
    split
    · simp_all
    · exact Nat.lt_log2_self
  rw [powBy, map_powLoop f hmul, hone, one_pow, one_mul, Nat.mod_eq_of_lt hlt]

/-- The sum of products is the sum of the products. -/
theorem map_sumOfProducts {α R : Type} [CommRing R] (f : α → R) {zero : α} {add mul : α → α → α} (hzero : f zero = 0)
    (hadd : ∀ a b, f (add a b) = f a + f b) (hmul : ∀ a b, f (mul a b) = f a * f b) (as bs : List α) :
    f (sumOfProducts zero add mul as bs) = (List.zipWith (fun a b => f a * f b) as bs).sum := by
  have key : ∀ (l : List (α × α)) (x : α), f (l.foldl (fun acc ab => add acc (mul ab.1 ab.2)) x) =
      f x + (l.map fun ab => f ab.1 * f ab.2).sum := by
    intro l
    induction l with
    | nil => intro x; simp
    | cons p l ih => intro x; rw [List.foldl_cons, ih, hadd, hmul]; simp; ring
  rw [sumOfProducts, key, hzero, zero_add, ← List.map_uncurry_zip_eq_zipWith]
  rfl

/-! ### The tower -/

section
variable {R : Type} [CommRing R] {u v w : R} (h : TowerRoots R u v w)
include h

theorem eval_fq2Add (a b : Fq2) : evalFq2 u (fq2Add Config.params a b) = evalFq2 u a + evalFq2 u b := by
  simp only [evalFq2, fq2Add, cast_addMod h.char]; ring

theorem eval_fq2Sub (a : Fq2) {b : Fq2} (hb : b.Reduced Config.params.q) :
    evalFq2 u (fq2Sub Config.params a b) = evalFq2 u a - evalFq2 u b := by
  simp only [evalFq2, fq2Sub, cast_subMod h.char _ hb.1, cast_subMod h.char _ hb.2]; ring

theorem eval_fq2Neg {a : Fq2} (ha : a.Reduced Config.params.q) :
    evalFq2 u (fq2Neg Config.params a) = -evalFq2 u a := by
  simp only [evalFq2, fq2Neg, cast_negMod h.char ha.1, cast_negMod h.char ha.2]; ring

theorem eval_fq2Dbl (a : Fq2) : evalFq2 u (fq2Dbl Config.params a) = 2 * evalFq2 u a := by
  simp only [evalFq2, fq2Dbl, cast_dblMod h.char]; ring

theorem eval_fq2Mul (a b : Fq2) : evalFq2 u (fq2Mul Config.params a b) = evalFq2 u a * evalFq2 u b := by
  simp only [evalFq2, fq2Mul, cast_addMod h.char, cast_mulMod h.char]
  linear_combination (-(a.c1 : R) * b.c1) * h.u_sq

theorem eval_fq2Sqr (a : Fq2) : evalFq2 u (fq2Sqr Config.params a) = evalFq2 u a ^ 2 := by
  simp only [evalFq2, fq2Sqr, cast_addMod h.char, cast_mulMod h.char, cast_sqrMod h.char, cast_dblMod h.char]
  linear_combination (-(a.c1 : R) ^ 2) * h.u_sq

omit h in
theorem eval_fq2Zero : evalFq2 u fq2Zero = 0 := by simp [evalFq2, fq2Zero]

omit h in
theorem eval_fq2One : evalFq2 u fq2One = 1 := by simp [evalFq2, fq2One]

theorem eval_fq2Pow (a : Fq2) (e : Nat) : evalFq2 u (fq2Pow Config.params a e) = evalFq2 u a ^ e :=
  map_powBy (evalFq2 u) (eval_fq2Mul h) (eval_fq2One) a e

theorem eval_fq6Add (a b : Fq6) : evalFq6 u v (fq6Add Config.params a b) = evalFq6 u v a + evalFq6 u v b := by
  simp only [evalFq6, fq6Add, eval_fq2Add h]; ring

theorem eval_fq6Sub (a : Fq6) {b : Fq6} (hb : b.Reduced Config.params.q) :
    evalFq6 u v (fq6Sub Config.params a b) = evalFq6 u v a - evalFq6 u v b := by
  simp only [evalFq6, fq6Sub, eval_fq2Sub h _ hb.1, eval_fq2Sub h _ hb.2.1, eval_fq2Sub h _ hb.2.2]; ring

theorem eval_fq6Neg {a : Fq6} (ha : a.Reduced Config.params.q) :
    evalFq6 u v (fq6Neg Config.params a) = -evalFq6 u v a := by
  simp only [evalFq6, fq6Neg, eval_fq2Neg h ha.1, eval_fq2Neg h ha.2.1, eval_fq2Neg h ha.2.2]; ring

theorem eval_fq6Dbl (a : Fq6) : evalFq6 u v (fq6Dbl Config.params a) = 2 * evalFq6 u v a := by
  simp only [evalFq6, fq6Dbl, eval_fq2Dbl h]; ring

theorem eval_fq6Mul (a b : Fq6) : evalFq6 u v (fq6Mul Config.params a b) = evalFq6 u v a * evalFq6 u v b := by
  simp only [evalFq6, fq6Mul, eval_fq2Add h, eval_fq2Mul h, ← h.v_cube]; ring

omit h in
theorem eval_fq6Zero : evalFq6 u v fq6Zero = 0 := by simp [evalFq6, fq6Zero, eval_fq2Zero]

omit h in
theorem eval_fq6One : evalFq6 u v fq6One = 1 := by simp [evalFq6, fq6One, eval_fq2Zero, eval_fq2One]

theorem eval_fq6Pow (a : Fq6) (e : Nat) : evalFq6 u v (fq6Pow Config.params a e) = evalFq6 u v a ^ e :=
  map_powBy (evalFq6 u v) (eval_fq6Mul h) (eval_fq6One) a e

theorem eval_fq12Add (a b : Fq12) :
    evalFq12 u v w (fq12Add Config.params a b) = evalFq12 u v w a + evalFq12 u v w b := by
  simp only [evalFq12, fq12Add, eval_fq6Add h]; ring

theorem eval_fq12Sub (a : Fq12) {b : Fq12} (hb : b.Reduced Config.params.q) :
    evalFq12 u v w (fq12Sub Config.params a b) = evalFq12 u v w a - evalFq12 u v w b := by
  simp only [evalFq12, fq12Sub, eval_fq6Sub h _ hb.1, eval_fq6Sub h _ hb.2]; ring

theorem eval_fq12Neg {a : Fq12} (ha : a.Reduced Config.params.q) :
    evalFq12 u v w (fq12Neg Config.params a) = -evalFq12 u v w a := by
  simp only [evalFq12, fq12Neg, eval_fq6Neg h ha.1, eval_fq6Neg h ha.2]; ring

theorem eval_fq12Dbl (a : Fq12) : evalFq12 u v w (fq12Dbl Config.params a) = 2 * evalFq12 u v w a := by
  simp only [evalFq12, fq12Dbl, eval_fq6Dbl h]; ring

theorem eval_fq12Mul (a b : Fq12) :
    evalFq12 u v w (fq12Mul Config.params a b) = evalFq12 u v w a * evalFq12 u v w b := by
  simp only [evalFq12, fq12Mul, eval_fq6Add h, eval_fq6Mul h, ← h.w_sq]; ring

omit h in
theorem eval_fq12Zero : evalFq12 u v w fq12Zero = 0 := by simp [evalFq12, fq12Zero, eval_fq6Zero]

omit h in
theorem eval_fq12One : evalFq12 u v w fq12One = 1 := by simp [evalFq12, fq12One, eval_fq6Zero, eval_fq6One]

theorem eval_fq12Pow (a : Fq12) (e : Nat) :
    evalFq12 u v w (fq12Pow Config.params a e) = evalFq12 u v w a ^ e :=
  map_powBy (evalFq12 u v w) (eval_fq12Mul h) (eval_fq12One) a e

omit h in
theorem eval_sparse01 (s0 s1 : Fq2) : evalFq6 u v (sparse01 s0 s1) = evalFq2 u s0 + evalFq2 u s1 * v := by
  simp only [evalFq6, sparse01, eval_fq2Zero]; ring

omit h in
theorem eval_sparse014 (s0 s1 s4 : Fq2) :
    evalFq12 u v w (sparse014 s0 s1 s4) = evalFq2 u s0 + evalFq2 u s1 * v + evalFq2 u s4 * v * w := by
  simp only [evalFq12, evalFq6, sparse014, eval_fq2Zero]; ring

omit h in
theorem eval_sparse034 (s0 s3 s4 : Fq2) :
    evalFq12 u v w (sparse034 s0 s3 s4) = evalFq2 u s0 + evalFq2 u s3 * w + evalFq2 u s4 * v * w := by
  simp only [evalFq12, evalFq6, sparse034, eval_fq2Zero]; ring

end

end Sys2Proof.Machine
end

