-- ==== Sys2Proof/Tests/Slice0.lean ====
section
/-! SUPPORT. Tests. Expected values are the spec's: words composed bit by bit from 30_encoding.md R50 and R54 and those of
95_test_vectors.md section 3, and the vectors of 95_test_vectors.md sections 3 to 7 for the record `TOY`. -/

namespace Sys2Proof.Tests

set_option Elab.async false

open Sys2Proof.Machine

/-! ### Well-formedness -/

/-- The one check of `WellFormed`: a sign selector that no legal word carries is refused (R53). -/
theorem test_wellFormed_refuses_sign : (Instr.pdec 4 1 2).wellFormed = false ∧ (Instr.pdec 4 1 1).wellFormed = true := by
  decide

/-! ### Decoding: every constructor by a word written out -/

/-- All the words decode to the commands beside them. -/
def decodesAll (l : List (CmdWord × Instr)) : Bool := l.all fun x => decide (decode x.1 = .ok x.2)

theorem test_decode_system : decodesAll [
    (0x0000000000000F00, .nop), (0x0000000000120F01, .ld 0x12),
    (0x0000000034000F02, .st 0x34), (0xABCD000034120F03, .mov 0x12 0x34 0xABCD),
    (0xABCD000000120F04, .ldi 0x12 0xABCD)] = true := by decide +kernel

theorem test_decode_constants : decodesAll [
    (0x0000000000120010, .zeroFq 0x12), (0x0000000000120110, .zeroFr 0x12),
    (0x0000000000120210, .zeroFq2 0x12), (0x0000000000120310, .zeroFq6 0x12),
    (0x0000000000120410, .zeroFq12 0x12), (0x0000000000120011, .oneFq 0x12),
    (0x0000000000120111, .oneFr 0x12), (0x0000000000120211, .oneFq2 0x12),
    (0x0000000000120311, .oneFq6 0x12), (0x0000000000120411, .oneFq12 0x12),
    (0x000000000012001F, .charFq 0x12), (0x000000000012011F, .charFr 0x12)] = true := by decide +kernel

theorem test_decode_predicates : decodesAll [
    (0x0000000034000012, .iszFq 0x34), (0x0000000034000112, .iszFr 0x34),
    (0x0000000034000212, .iszFq2 0x34), (0x0000000034000312, .iszFq6 0x34),
    (0x0000000034000412, .iszFq12 0x34), (0x0000000034000013, .isoneFq 0x34),
    (0x0000000034000113, .isoneFr 0x34), (0x0000000034000213, .isoneFq2 0x34),
    (0x0000000034000313, .isoneFq6 0x34), (0x0000000034000413, .isoneFq12 0x34),
    (0x0000005634000014, .eqFq 0x34 0x56), (0x0000005634000114, .eqFr 0x34 0x56),
    (0x0000005634000214, .eqFq2 0x34 0x56), (0x0000005634000314, .eqFq6 0x34 0x56),
    (0x0000005634000414, .eqFq12 0x34 0x56), (0x0000000034000020, .legFq 0x34),
    (0x0000000034000120, .legFr 0x34)] = true := by decide +kernel

theorem test_decode_adder : decodesAll [
    (0x0000005634120015, .addFq 0x12 0x34 0x56), (0x0000005634120115, .addFr 0x12 0x34 0x56),
    (0x0000005634120215, .addFq2 0x12 0x34 0x56), (0x0000005634120315, .addFq6 0x12 0x34 0x56),
    (0x0000005634120415, .addFq12 0x12 0x34 0x56), (0x0000005634120016, .subFq 0x12 0x34 0x56),
    (0x0000005634120116, .subFr 0x12 0x34 0x56), (0x0000005634120216, .subFq2 0x12 0x34 0x56),
    (0x0000005634120316, .subFq6 0x12 0x34 0x56), (0x0000005634120416, .subFq12 0x12 0x34 0x56),
    (0x0000000034120018, .negFq 0x12 0x34), (0x0000000034120118, .negFr 0x12 0x34),
    (0x0000000034120218, .negFq2 0x12 0x34), (0x0000000034120318, .negFq6 0x12 0x34),
    (0x0000000034120418, .negFq12 0x12 0x34), (0x0000000034120019, .dblFq 0x12 0x34),
    (0x0000000034120119, .dblFr 0x12 0x34), (0x0000000034120219, .dblFq2 0x12 0x34),
    (0x0000000034120319, .dblFq6 0x12 0x34), (0x0000000034120419, .dblFq12 0x12 0x34)] = true := by decide +kernel

theorem test_decode_multiplier : decodesAll [
    (0x0000005634120017, .mulFq 0x12 0x34 0x56), (0x0000005634120117, .mulFr 0x12 0x34 0x56),
    (0x0000005634120217, .mulFq2 0x12 0x34 0x56), (0x0000005634120317, .mulFq6 0x12 0x34 0x56),
    (0x0000005634120417, .mulFq12 0x12 0x34 0x56), (0x000000003412001A, .sqrFq 0x12 0x34),
    (0x000000003412011A, .sqrFr 0x12 0x34), (0x000000003412021A, .sqrFq2 0x12 0x34),
    (0x000000003412031A, .sqrFq6 0x12 0x34), (0x000000003412041A, .sqrFq12 0x12 0x34),
    (0x000000563412001D, .powFq 0x12 0x34 0x56), (0x000000563412011D, .powFr 0x12 0x34 0x56),
    (0x000000563412021D, .powFq2 0x12 0x34 0x56), (0x000000563412031D, .powFq6 0x12 0x34 0x56),
    (0x000000563412041D, .powFq12 0x12 0x34 0x56), (0xABCD00563412001E, .sopFq 0x12 0x34 0x56 0xABCD),
    (0xABCD00563412011E, .sopFr 0x12 0x34 0x56 0xABCD), (0xABCD00563412021E, .sopFq2 0x12 0x34 0x56 0xABCD),
    (0xABCD00563412031E, .sopFq6 0x12 0x34 0x56 0xABCD), (0xABCD00563412041E, .sopFq12 0x12 0x34 0x56 0xABCD)] = true := by decide +kernel

theorem test_decode_inverse : decodesAll [
    (0x000000003412001B, .invFq 0x12 0x34), (0x000000003412011B, .invFr 0x12 0x34),
    (0x000000003412021B, .invFq2 0x12 0x34), (0x000000003412031B, .invFq6 0x12 0x34),
    (0x000000003412041B, .invFq12 0x12 0x34), (0x000000563412001C, .divFq 0x12 0x34 0x56),
    (0x000000563412011C, .divFr 0x12 0x34 0x56), (0x000000563412021C, .divFq2 0x12 0x34 0x56),
    (0x000000563412031C, .divFq6 0x12 0x34 0x56), (0x000000563412041C, .divFq12 0x12 0x34 0x56),
    (0x0000000034120021, .sqrtFq 0x12 0x34), (0x0000000034120121, .sqrtFr 0x12 0x34),
    (0x0000000034120022, .redFq 0x12 0x34), (0x0000000034120122, .redFr 0x12 0x34)] = true := by decide +kernel

theorem test_decode_tower : decodesAll [
    (0xABCD000034120228, .frobFq2 0x12 0x34 0xABCD), (0xABCD000034120328, .frobFq6 0x12 0x34 0xABCD),
    (0xABCD000034120428, .frobFq12 0x12 0x34 0xABCD), (0x0000000034120029, .mulnrFq 0x12 0x34),
    (0x0000000034120229, .mulnrFq2 0x12 0x34), (0x0000000034120329, .mulnrFq6 0x12 0x34),
    (0x000000563412032A, .mul01Fq6 0x12 0x34 0x56), (0x000000563412042B, .mul014Fq12 0x12 0x34 0x56),
    (0x000000563412042C, .mul034Fq12 0x12 0x34 0x56), (0x000000003412042D, .cycsqrFq12 0x12 0x34),
    (0x000000563412042E, .cycexpFq12 0x12 0x34 0x56)] = true := by decide +kernel

theorem test_decode_curve : decodesAll [
    (0x0000000000120540, .pzero 0x12), (0x0000000034000541, .pisz 0x34),
    (0x0000000034000542, .aisz 0x34), (0x0000000034120543, .pdbl 0x12 0x34),
    (0x0000005634120544, .padd 0x12 0x34 0x56), (0x0000005634120545, .paddm 0x12 0x34 0x56),
    (0x0000000034120546, .aneg 0x12 0x34), (0x0000005634000547, .peq 0x34 0x56),
    (0x0000000034120548, .a2p 0x12 0x34), (0x0000000034120549, .p2a 0x12 0x34),
    (0xABCD00000012054A, .bnorm 0x12 0xABCD), (0x000000000012054B, .pgen 0x12),
    (0x000000000012054C, .cof 0x12), (0x000100003412054D, .pdec 0x12 0x34 0x1),
    (0x000000563412054E, .pmuln 0x12 0x34 0x56), (0x000000563412054F, .pmul 0x12 0x34 0x56)] = true := by decide +kernel

/-- The encodings of section 3. -/
theorem test_decode_section3 : decodesAll [
    (0x0000000201030015, .addFq 3 1 2), (0x000300000C180428, .frobFq12 24 12 3), (0x00040000001E054A, .bnorm 30 4),
    (0x000000140315054F, .pmul 21 3 20), (0x0000000000050F01, .ld 5), (0x000100000104054D, .pdec 4 1 1),
    (0x000300140A09011E, .sopFr 9 10 20 3)] = true := by decide +kernel

/-- The undecodable words of section 3. -/
theorem test_decode_illegal :
    decode 0x0000000000000FFF = .error .unknownPair ∧ decode 0x0000000001000220 = .error .unknownPair ∧
    decode 0x0000000000001F00 = .error .reservedBit ∧ decode 0x0000000501020018 = .error .unusedField ∧
    decode 0x000200000104054D = .error .signSelector := by decide +kernel

/-! ### Faults (section 3): one transaction each -/

/-- A state with the cells from `i` on written. -/
def stateOf (i : Nat) (vs : List Nat) : State := State.reset.write i vs

/-- `STATUS` after a step. -/
def statusOf : Result → Option (BitVec 16)
  | .next t => some t.status
  | _ => none

/-- `n` cells from `i` on, after a step. -/
def cellsOf (i n : Nat) : Result → List (Option Nat)
  | .next t => (List.range n).map fun j => readCell t.cells (i + j)
  | _ => []

/-- `STATUS` after a transaction of the word. -/
def statusAfter (s : State) (w : CmdWord) : Option (BitVec 16) := statusOf (step { s with inbox := [.command w []] })

theorem test_fault_illegal : statusAfter State.reset 0x0000000000000FFF = some 0x0110 := by decide +kernel

theorem test_fault_range : statusAfter State.reset 0x0000000000FA0411 = some 0x0210 := by decide +kernel

theorem test_fault_unwritten : statusAfter State.reset 0x0000000302010015 = some 0x0310 := by decide +kernel

theorem test_fault_badFlag : statusAfter (stateOf 0 [0, 1, 2]) 0x0000000000000542 = some 0x0410 := by decide +kernel

/-- `ra` out of range and `rb` unwritten: 2 wins over 3. -/
theorem test_fault_priority : statusAfter State.reset 0x00000000FA000415 = some 0x0210 := by decide +kernel

/-- `add.fr` of a cell that holds `r` faults, `add.fq` of it does not (`TOY`). -/
theorem test_fault_unreduced :
    statusOf (binaryCommand (primeElem Params.toy.r) (primeElem Params.toy.r) (primeElem Params.toy.r)
      (addMod Params.toy.r) 2 1 1 (stateOf 1 [68892664325761])) = some 0x0510 ∧
    cellsOf 2 1 (binaryCommand (primeElem Params.toy.q) (primeElem Params.toy.q) (primeElem Params.toy.q)
      (addMod Params.toy.q) 2 1 1 (stateOf 1 [68892664325761])) = [some 137785328651522] := by decide +kernel

/-- A refused command does nothing (program P2, line 9). -/
theorem test_refused : statusAfter { State.reset with status := 0x0319 } 0x0001000000070F04 = some 0x0319 := by
  decide +kernel

/-! ### System commands -/

theorem test_ldi : cellsOf 1 1 (exec (.ldi 1 7) State.reset) = [some 7] := by decide +kernel

/-- Twelve cells up by one, overlapping (R38). -/
theorem test_mov_overlap : cellsOf 0 4 (exec (.mov 1 0 3) (stateOf 0 [5, 6, 7])) = [some 5, some 5, some 6, some 7] := by
  decide +kernel

theorem test_mov_range : statusOf (exec (.mov 0 0 257) State.reset) = some 0x0210 ∧
    statusOf (exec (.mov 255 255 0) State.reset) = some 0 := by decide +kernel

theorem test_ld : cellsOf 20 1 (ldCommand 2 20 { State.reset with payload := [0x00000000075BCD15, 0] }) =
    [some 123456789] := by decide +kernel

theorem test_st : (match stCommand 2 3 (stateOf 3 [95237219163932007841]) with
    | .next t => t.portOut
    | _ => []) = [0x29AE923DBE311DA1, 5] := by decide +kernel

/-! ### Prime fields (section 4) -/

theorem test_adder_fq :
    addMod Params.toy.q 190474438327864015680 1 = 0 ∧
    addMod Params.toy.q 190474438327864015680 190474438327864015680 = 190474438327864015679 ∧
    subMod Params.toy.q 3 5 = 190474438327864015679 ∧
    subMod Params.toy.q 5 3 = 2 ∧
    negMod Params.toy.q 0 = 0 ∧
    negMod Params.toy.q 1 = 190474438327864015680 ∧
    dblMod Params.toy.q 190474438327864015680 = 190474438327864015679 := by decide +kernel

theorem test_multiplier_fq :
    mulMod Params.toy.q 123456789 987654321 = 121932631112635269 ∧
    mulMod Params.toy.q 190474438327864015679 190474438327864015678 = 6 ∧
    sqrMod Params.toy.q 190474438327864015680 = 1 ∧
    powMod Params.toy.q 0 0 = 1 ∧
    powMod Params.toy.q 3 (2 ^ 64 + 1) = 70528579271136841335 ∧
    sumOfProducts 0 (addMod Params.toy.q) (mulMod Params.toy.q) [190474438327864015680, 190474438327864015679] [190474438327864015680, 2] = 190474438327864015678 ∧
    (2 ^ 128 - 1) % Params.toy.q = 90898956724362130764 := by decide +kernel

theorem test_inverse_fq :
    invMod Params.toy.q 0 = none ∧
    invMod Params.toy.q 3 = some 126982958885242677121 ∧
    divideBy (mulMod Params.toy.q) (invMod Params.toy.q) 10 4 = some 95237219163932007843 ∧
    divideBy (mulMod Params.toy.q) (invMod Params.toy.q) 1 0 = none := by decide +kernel

theorem test_legendre_fq :
    [0, 1, 7, 4, 2, 3, 5].map (legendre Params.toy.q) =
      [.zero, .residue, .nonResidue, .residue, .residue, .residue, .residue] := by decide +kernel

/-- Section 7. -/
theorem test_sqrt_fq :
    [0, 1, 4, 9, 2, 3, 5, 7].map (sqrtMod Params.toy.fq) =
      [.root 0, .root 1, .root 2, .root 190474438327864015678, .root 166186729456128649471,
        .root 119403662809998319727, .root 123701213079477023558, .nonResidue] := by decide +kernel

theorem test_adder_fr :
    addMod Params.toy.r 68892664325760 1 = 0 ∧
    addMod Params.toy.r 68892664325760 68892664325760 = 68892664325759 ∧
    subMod Params.toy.r 3 5 = 68892664325759 ∧
    subMod Params.toy.r 5 3 = 2 ∧
    negMod Params.toy.r 0 = 0 ∧
    negMod Params.toy.r 1 = 68892664325760 ∧
    dblMod Params.toy.r 68892664325760 = 68892664325759 := by decide +kernel

theorem test_multiplier_fr :
    mulMod Params.toy.r 123456789 987654321 = 61507920364060 ∧
    mulMod Params.toy.r 68892664325759 68892664325758 = 6 ∧
    sqrMod Params.toy.r 68892664325760 = 1 ∧
    powMod Params.toy.r 0 0 = 1 ∧
    powMod Params.toy.r 3 (2 ^ 64 + 1) = 66021434916493 ∧
    sumOfProducts 0 (addMod Params.toy.r) (mulMod Params.toy.r) [68892664325760, 68892664325759] [68892664325760, 2] = 68892664325758 ∧
    (2 ^ 128 - 1) % Params.toy.r = 31624445639010 := by decide +kernel

theorem test_inverse_fr :
    invMod Params.toy.r 0 = none ∧
    invMod Params.toy.r 3 = some 45928442883841 ∧
    divideBy (mulMod Params.toy.r) (invMod Params.toy.r) 10 4 = some 34446332162883 ∧
    divideBy (mulMod Params.toy.r) (invMod Params.toy.r) 1 0 = none := by decide +kernel

theorem test_legendre_fr :
    [0, 1, 14, 4, 2, 3, 5].map (legendre Params.toy.r) =
      [.zero, .residue, .nonResidue, .residue, .residue, .residue, .residue] := by decide +kernel

/-- Section 7. -/
theorem test_sqrt_fr :
    [0, 1, 4, 9, 2, 3, 5, 14].map (sqrtMod Params.toy.fr) =
      [.root 0, .root 1, .root 2, .root 68892664325758, .root 19153367876039,
        .root 23912758079, .root 3538429997784, .nonResidue] := by decide +kernel

/-- The field of 17 elements of 47_sqrt.md, R301 to R304. -/
theorem test_sqrt_f17 : (let f : PrimeParams := ⟨17, 3, 4, 1, [3, 9, 13]⟩
    [sqrtMod f 2, sqrtMod f 13, (findOrder f 2).elim .hang .root, (evalLog f 13).elim .hang .root]) =
      [.root 6, .root 8, .root 2, .root 12] := by decide +kernel

/-- `None` unwrites the destination and sets `N`, a value clears `N` (program P2, lines 3 and 5). -/
theorem test_none :
    (let r := sqrtCommand Params.toy.fq 2 1 (stateOf 1 [7, 5]); (statusOf r, cellsOf 2 1 r)) = (some 0x0002, [none]) ∧
    (let r := sqrtCommand Params.toy.fq 4 3 ((stateOf 3 [9]).setN true); (statusOf r, cellsOf 4 1 r)) =
      (some 0x0000, [some 190474438327864015678]) := by decide +kernel

/-! ### The tower (section 5) -/

/-- The integers read as an operand. -/
def ofCells {α : Type} (t : ElemTy α) (vs : List Nat) : α := t.read (fun i => vs.getD i 0) 0

/-- `a2`, `b2`, `a6`, `b6`, `a12`, `b12` of section 5, and its cyclotomic element `c`. -/
def a2 : Fq2 := ⟨1, 2⟩
def b2 : Fq2 := ⟨3, 4⟩
def a6 : Fq6 := ofCells (fq6Elem Params.toy) [1, 2, 3, 4, 5, 6]
def b6 : Fq6 := ofCells (fq6Elem Params.toy) [7, 8, 9, 10, 11, 12]
def a12 : Fq12 := ofCells (fq12Elem Params.toy) [1, 2, 3, 4, 5, 6, 7, 8, 9, 10, 11, 12]
def b12 : Fq12 := ofCells (fq12Elem Params.toy) [13, 14, 15, 16, 17, 18, 19, 20, 21, 22, 23, 24]
def c : Fq12 := ofCells (fq12Elem Params.toy) [97752853120617902795, 75017658431171413357, 41403111656426612712, 162665559123177675868, 173428018305953900410, 68572916083720227134, 69576857491809875641, 59252201424942197663, 72358557893380679299, 80891756597428878361, 132604590825518426877, 177793743447721205049]

theorem test_fq2 :
    fq2Add Params.toy a2 b2 = ⟨4, 6⟩ ∧
    fq2Sub Params.toy a2 b2 = ⟨190474438327864015679, 190474438327864015679⟩ ∧
    fq2Neg Params.toy a2 = ⟨190474438327864015680, 190474438327864015679⟩ ∧
    fq2Dbl Params.toy a2 = ⟨2, 4⟩ ∧
    fq2Mul Params.toy a2 b2 = ⟨59, 10⟩ ∧
    fq2Sqr Params.toy a2 = ⟨29, 4⟩ ∧
    fq2Inv Params.toy a2 = some ⟨70546088269579265067, 49382261788705485547⟩ ∧
    fq2Inv Params.toy ⟨0, 0⟩ = none ∧
    divideBy (fq2Mul Params.toy) (fq2Inv Params.toy) a2 b2 =
      some ⟨157187643280276129446, 44382393396783848314⟩ ∧
    fq2Pow Params.toy a2 5 = ⟨4201, 2138⟩ ∧
    fq2Pow Params.toy a2 Params.toy.q = ⟨1, 190474438327864015679⟩ ∧
    [0, 2, 1, 3, 65535].map (fun k => fq2Frob Params.toy k a2) =
      [⟨1, 2⟩, ⟨1, 2⟩, ⟨1, 190474438327864015679⟩, ⟨1, 190474438327864015679⟩, ⟨1, 190474438327864015679⟩] ∧
    sumOfProducts fq2Zero (fq2Add Params.toy) (fq2Mul Params.toy) [a2, b2] [b2, a2] = ⟨118, 20⟩ ∧
    fq2MulNonres Params.toy a2 = ⟨14, 1⟩ ∧
    fqMulNonres Params.toy 5 = 35 := by decide +kernel

theorem test_fq6 :
    (fq6Elem Params.toy).cells (fq6Add Params.toy a6 b6) = [8, 10, 12, 14, 16, 18] ∧
    (fq6Elem Params.toy).cells (fq6Sub Params.toy a6 b6) =
      [190474438327864015675, 190474438327864015675, 190474438327864015675, 190474438327864015675, 190474438327864015675, 190474438327864015675] ∧
    (fq6Elem Params.toy).cells (fq6Mul Params.toy a6 b6) = [1407, 856, 1276, 639, 857, 182] ∧
    (fq6Elem Params.toy).cells (fq6Sqr Params.toy a6) = [561, 370, 538, 297, 299, 56] ∧
    (fq6Inv Params.toy a6).map (fq6Elem Params.toy).cells =
      some [76077595288340237921, 11765488138325344809, 64871806800881490163, 3290837376901009713, 172304301242309023212, 13585275726668906300] ∧
    fq6Inv Params.toy fq6Zero = none ∧
    (divideBy (fq6Mul Params.toy) (fq6Inv Params.toy) a6 b6).map (fq6Elem Params.toy).cells =
      some [61634276191306825287, 22362349415156375484, 55476798219832474577, 136966830110056157087, 156752128246541857204, 132178822785842479537] ∧
    (fq6Elem Params.toy).cells (fq6Pow Params.toy a6 5) =
      [201408236, 75622063, 135632281, 53273300, 96127272, 38179653] ∧
    (fq6Elem Params.toy).cells (sumOfProducts fq6Zero (fq6Add Params.toy) (fq6Mul Params.toy) [a6, b6] [b6, a6]) =
      [2814, 1712, 2552, 1278, 1714, 364] := by decide +kernel

theorem test_fq6_extra :
    (fq6Elem Params.toy).cells (fq6MulNonres Params.toy a6) = [42, 5, 1, 2, 3, 4] ∧
    (fq6Elem Params.toy).cells (fq6Mul Params.toy a6 (sparse01 ⟨7, 8⟩ ⟨9, 10⟩)) = [847, 487, 394, 80, 678, 148] ∧
    (fq6Elem Params.toy).cells (fq6Frob Params.toy 1 a6) =
      [1, 190474438327864015679, 189879618777196947838, 793092734222757124, 189483072410085569271, 1189639101334135692] ∧
    fq6Frob Params.toy 1 a6 = fq6Pow Params.toy a6 Params.toy.q ∧ fq6Frob Params.toy 7 a6 = fq6Frob Params.toy 1 a6 ∧
    (fq6Elem Params.toy).cells (fq6Frob Params.toy 2 a6) =
      [1, 2, 189879618777196947835, 189681345593641258553, 991365917778446405, 1189639101334135686] ∧
    (fq6Elem Params.toy).cells (fq6Frob Params.toy 65535 a6) = [1, 190474438327864015679, 190474438327864015678, 4, 5, 190474438327864015675] ∧
    fq6Frob Params.toy 6 a6 = a6 := by decide +kernel

theorem test_fq12 :
    (fq12Elem Params.toy).cells (fq12Add Params.toy a12 b12) =
      [14, 16, 18, 20, 22, 24, 26, 28, 30, 32, 34, 36] ∧
    (fq12Elem Params.toy).cells (fq12Mul Params.toy a12 b12) =
      [10709, 6465, 9847, 5239, 8145, 3269, 8790, 4952, 7664, 3510, 5674, 1300] ∧
    (fq12Elem Params.toy).cells (fq12Sqr Params.toy a12) =
      [4229, 2649, 4087, 2287, 3393, 1469, 2814, 1712, 2552, 1278, 1714, 364] ∧
    (fq12Inv Params.toy a12).map (fq12Elem Params.toy).cells =
      some [53711293079490529363, 107475470580901876642, 180488243456409319791, 103555742237365150922, 42212731375020916618, 55907217150018485766, 115770155831169150864, 165850010208579203208, 44574438078663503946, 176911321358093451906, 128766937306619444646, 26313215315857175971] ∧
    fq12Inv Params.toy fq12Zero = none ∧
    (divideBy (fq12Mul Params.toy) (fq12Inv Params.toy) a12 b12).map (fq12Elem Params.toy).cells =
      some [189432765680892231175, 64245451174896876277, 189808419660025061684, 151626730304481476961, 167273107657269298608, 128246930937360100725, 71755005039535198434, 20228049404146484389, 59458267987449529376, 38546342604598794593, 54834743203006378761, 54653220419744807724] ∧
    (fq12Elem Params.toy).cells (fq12Pow Params.toy a12 5) =
      [83116053126, 30629169708, 59891336016, 22390389810, 42937027262, 16475394568, 74388799674, 27549536712, 53605749508, 20291185190, 38191942362, 14748060972] ∧
    (fq12Elem Params.toy).cells (sumOfProducts fq12Zero (fq12Add Params.toy) (fq12Mul Params.toy) [a12, b12] [b12, a12]) =
      [21418, 12930, 19694, 10478, 16290, 6538, 17580, 9904, 15328, 7020, 11348, 2600] := by decide +kernel

theorem test_fq12_extra :
    (fq12Elem Params.toy).cells (fq12Mul Params.toy a12 (sparse014 ⟨13, 14⟩ ⟨15, 16⟩ ⟨17, 18⟩)) =
      [3723, 2200, 3484, 1839, 2273, 518, 4711, 2552, 2367, 540, 3129, 726] ∧
    (fq12Elem Params.toy).cells (fq12Mul Params.toy a12 (sparse034 ⟨13, 14⟩ ⟨15, 16⟩ ⟨17, 18⟩)) =
      [5025, 2962, 4246, 2025, 3035, 704, 2458, 1089, 1859, 416, 2621, 602] ∧
    (fq12Elem Params.toy).cells (fq12Frob Params.toy 1 a12) =
      [1, 190474438327864015679, 189879618777196947838, 793092734222757124, 189483072410085569271, 1189639101334135692, 11624418597784252567, 13925584220798570735, 179736928926300444150, 181241177848727537862, 119779623036383567810, 25174042592197575219] ∧
    (fq12Elem Params.toy).cells (fq12Frob Params.toy 65535 a12) =
      [1, 190474438327864015679, 190474438327864015678, 4, 5, 190474438327864015675, 139795389164900345450, 30708279282263620881, 10737509401563571531, 9233260479136477819, 29204030359836527169, 141299638087327439162] ∧
    fq12Frob Params.toy 12 a12 = a12 := by decide +kernel

/-- `c` lies in `C`, where `cycsqr` is the square and `cycexp` the power; `a12` does not. -/
theorem test_cyclotomic :
    inCyclotomic Params.toy c = true ∧
    cellsOf 12 12 (cycsqrCommand Params.toy 12 0 (stateOf 0 ((fq12Elem Params.toy).cells c))) =
      ([29956443434126175028, 96905095731531720360, 108394517670331961264, 56718750524000467997, 153017169224800424895, 121140912962545958070, 94371820158828284112, 153054278360055039587, 143007412725553738248, 38944453942577821886, 72368746331949417382, 133305088706550583555]).map some ∧
    cellsOf 13 12 (cycexpCommand Params.toy 13 0 12 (stateOf 0 ((fq12Elem Params.toy).cells c ++ [5]))) =
      ([157329126092276054765, 28096262541411393425, 96034748074487767321, 172231763806420536241, 26287678706458965286, 122949264550952830261, 128617691582539581244, 57020162447338440685, 26634849445365648289, 19572653915671279075, 115653022002571762650, 115656854774561082982]).map some ∧
    inCyclotomic Params.toy a12 = false := by decide +kernel

/-! ### The curve (section 6) -/

/-- The generator of `TOY`, affine and lifted, and the triples `2G`, `3G`, `4G` of section 6. -/
def G : Affine := ⟨70870921040254545167, 124112215922532319257, 0⟩
def Gp : Jacobian := ⟨70870921040254545167, 124112215922532319257, 1⟩
def G2 : Jacobian := ⟨38562557404614551712, 71618388061716771901, 57749993517200622833⟩
def G3 : Jacobian := ⟨169593803767496012289, 128841623629094740233, 78488085825208291852⟩
def G4 : Jacobian := ⟨189834727559339847100, 73672283441943374345, 81105118987566198392⟩

theorem test_pdbl :
    jacDouble Params.toy Gp = G2 ∧
    jacDouble Params.toy G2 = G4 ∧
    jacDouble Params.toy ⟨5, 7, 0⟩ = ⟨5, 7, 0⟩ := by decide +kernel

theorem test_padd :
    jacAdd Params.toy Gp Gp = G2 ∧
    jacAdd Params.toy G2 Gp = G3 ∧
    jacAdd Params.toy G2 ⟨38562557404614551712, 118856050266147243780, 57749993517200622833⟩ =
      ⟨84571960516892339057, 42208915929705267403, 0⟩ ∧
    jacAdd Params.toy ⟨0, 1, 0⟩ G3 = G3 ∧
    jacAdd Params.toy G3 ⟨0, 1, 0⟩ = G3 := by decide +kernel

theorem test_paddm :
    jacAddMixed Params.toy Gp G = G2 ∧
    jacAddMixed Params.toy G2 G = G3 ∧
    jacAddMixed Params.toy Gp (affNeg Params.toy G) = ⟨113271925897862472465, 152032826731129954870, 0⟩ ∧
    jacAddMixed Params.toy ⟨0, 1, 0⟩ G = Gp ∧
    jacAddMixed Params.toy G3 ⟨5, 7, 1⟩ = G3 := by decide +kernel

theorem test_conversions :
    affNeg Params.toy G = ⟨70870921040254545167, 66362222405331696424, 0⟩ ∧
    affNeg Params.toy ⟨5, 7, 1⟩ = ⟨0, 1, 1⟩ ∧
    toJacobian G = Gp ∧
    toJacobian ⟨9, 9, 1⟩ = ⟨0, 1, 0⟩ ∧
    toAffine Params.toy G2 = ⟨108419183515019693724, 158659661924911558924, 0⟩ ∧
    toAffine Params.toy ⟨5, 7, 0⟩ = ⟨0, 1, 1⟩ := by decide +kernel

theorem test_peq :
    jacEq Params.toy ⟨0, 1, 0⟩ ⟨5, 7, 0⟩ = true ∧
    jacEq Params.toy ⟨0, 1, 0⟩ Gp = false ∧
    jacEq Params.toy Gp ⟨0, 1, 0⟩ = false ∧
    jacEq Params.toy G3 (jacAdd Params.toy Gp G2) = true := by decide +kernel

/-- 45_batch_normalization.md R274, by one inversion and by an inversion each. -/
theorem test_bnorm :
    batchNormalize Params.toy [G2, Gp, ⟨0, 1, 0⟩, G3, G4] =
      [⟨108419183515019693724, 158659661924911558924, 1⟩, Gp, ⟨0, 1, 0⟩,
        ⟨2963669696452718280, 123755835021027807549, 1⟩, ⟨168529920517416905592, 30815033268324759302, 1⟩] ∧
    batchNormalizeShared Params.toy [G2, Gp, ⟨0, 1, 0⟩, G3, G4] =
      batchNormalize Params.toy [G2, Gp, ⟨0, 1, 0⟩, G3, G4] ∧
    prefixProducts Params.toy.q 1 [G2.z, G3.z, G4.z] =
      [57749993517200622833, 9020947262592198657, 107361987620118035197] := by decide +kernel

theorem test_bnorm_range : statusOf (exec (.bnorm 0 86) State.reset) = some 0x0210 ∧
    statusOf (exec (.bnorm 255 0) State.reset) = some 0 := by decide +kernel

theorem test_pdec :
    cellsOf 4 3 (pdecCommand Params.toy 4 1 0 (stateOf 1 [6])) = [some 6, some 8453074181044808293, some 0] ∧
    cellsOf 4 3 (pdecCommand Params.toy 4 1 1 (stateOf 1 [6])) = [some 6, some 182021364146819207388, some 0] ∧
    (let r := pdecCommand Params.toy 2 1 0 (stateOf 1 [3, 1, 1, 1]); (statusOf r, cellsOf 1 4 r)) =
      (some 0x0002, [some 3, none, none, none]) := by decide +kernel

theorem test_pmuln :
    naiveMul Params.toy Gp 0 = ⟨0, 1, 0⟩ ∧ naiveMul Params.toy Gp 1 = Gp ∧
    naiveMul Params.toy Gp 5 = ⟨39285557833650329939, 68591321859887496753, 94476147223446253861⟩ ∧
    naiveMul Params.toy Gp 68892664325761 = ⟨106284916413423140216, 39892868218723439891, 0⟩ := by decide +kernel

theorem test_wnaf :
    wnaf 0 = [] ∧ wnaf 7 = [7] ∧ wnaf 8 = [0, 0, 0, 1] ∧ wnaf 17 = [-15, 0, 0, 0, 0, 1] ∧
    wnaf 31 = [-1, 0, 0, 0, 0, 1] ∧ wnaf 255 = [-1, 0, 0, 0, 0, 0, 0, 0, 1] ∧
    wnaf 1234567 = [7, 0, 0, 0, 0, 0, 0, 13, 0, 0, 0, 0, 13, 0, 0, 0, 0, 9] := by decide +kernel

theorem test_glv_decompose :
    Params.toyGlv 123456789 = ⟨1045611, 15, true, false⟩ ∧ Params.toyGlv 68892664325760 = ⟨1, 0, true, false⟩ ∧
    Params.toyGlv 40000000000000 = ⟨1730559, 3480977, false, true⟩ := by decide +kernel

theorem test_pmul :
    glvMul Params.toy Gp 0 = ⟨0, 1, 0⟩ ∧
    glvMul Params.toy Gp 5 = ⟨113098536419110128610, 110438929591989224319, 1⟩ ∧
    glvMul Params.toy Gp 123456789 = ⟨189972814171175505859, 133052435984764841226, 118780785473523966754⟩ ∧
    glvMul Params.toy Gp 40000000000000 = ⟨180897942154070434084, 4974123369068963412, 175093034923545638325⟩ := by
  decide +kernel

end Sys2Proof.Tests
end

