-- ==== Sys2Proof/Tests/Witnesses.lean ====
section
/-! SUPPORT. For every statement with hypotheses, concrete states and operands that meet them all together, at the ends of
the ranges: the operands against cell 255, the counts 0 and largest, each case a statement distinguishes. -/

namespace Sys2Proof.Tests

open Sys2Proof.Machine

set_option Elab.async false

/-! ### States -/

/-- The cells below 128 hold 1, those from 128 on hold 0. -/
def mixed : State := State.reset.write 0 (List.replicate 128 1 ++ List.replicate 128 0)

/-- The cells of `mixed`. -/
theorem mixed_read {c : Nat} (h : c < 256) : readCell mixed.cells c = some (if c < 128 then 1 else 0) := by
  have hc : (List.replicate 128 1 ++ List.replicate 128 0)[c]? = some (if c < 128 then 1 else 0) := by
    rw [List.getElem?_append]
    simp only [List.length_replicate, List.getElem?_replicate]
    split <;> simp_all; omega
  have h0 := readCell_writeCells_inside State.reset.cells 0 _ hc
  rw [Nat.zero_add] at h0
  rw [mixed, write_cells, h0]

/-- What `mixed` holds in `n` cells from `i` on. -/
def mixedCells (i n : Nat) : List Nat := (List.range n).map fun j => if i + j < 128 then 1 else 0

theorem mixed_holds {i : CellIdx} {vs : List Nat} (h : i.toNat + vs.length ≤ 256)
    (hv : mixedCells i.toNat vs.length = vs) : holds mixed i vs := by
  refine ⟨h, fun j v hj => ?_⟩
  obtain ⟨hlt, hjv⟩ := List.getElem?_eq_some_iff.mp hj
  rw [mixed_read (by omega)]
  rw [← hv] at hj
  simp only [mixedCells, List.getElem?_map, Option.map_eq_some_iff] at hj
  obtain ⟨k, hk, rfl⟩ := hj
  rw [List.getElem?_range hlt] at hk
  cases hk; rfl

/-- The generator as a triple in cells 0 to 2 and as an affine point in cells 3 to 5, then 1 and `r`. -/
def curveState : State := State.reset.write 0
  [Config.params.genX, Config.params.genY, 1, Config.params.genX, Config.params.genY, 0, 1, Config.params.r]

theorem curve_holds {i : CellIdx} {vs : List Nat} (h : i.toNat + vs.length ≤ 8)
    (hv : ([Config.params.genX, Config.params.genY, 1, Config.params.genX, Config.params.genY, 0, 1,
      Config.params.r].drop i.toNat).take vs.length = vs) : holds curveState i vs := by
  refine ⟨by omega, fun j v hj => ?_⟩
  obtain ⟨hlt, _⟩ := List.getElem?_eq_some_iff.mp hj
  rw [← hv, List.getElem?_take_of_lt hlt, List.getElem?_drop] at hj
  have h0 := readCell_writeCells_inside State.reset.cells 0 _ hj
  rw [Nat.zero_add] at h0
  rw [curveState, write_cells, h0]

/-- The generator of the record as a triple. -/
def genTriple : Jacobian := ⟨Config.params.genX, Config.params.genY, 1⟩

theorem genTriple_valid : genTriple.Reduced Config.params.q :=
  ⟨Config.params_wellFormed.genX_lt, Config.params_wellFormed.genY_lt, Config.one_lt_q⟩

theorem genAffine_valid : (⟨Config.params.genX, Config.params.genY, 0⟩ : Affine).Reduced Config.params.q :=
  ⟨Config.params_wellFormed.genX_lt, Config.params_wellFormed.genY_lt, Nat.zero_le _⟩

theorem genTriple_standsFor : StandsFor genTriple Config.params.generator := by
  refine ⟨by simp [genTriple], Config.params_wellFormed.genX_lt, Config.params_wellFormed.genY_lt, ?_, ?_⟩ <;>
    simp [genTriple]

theorem generator_onCurve : OnCurve Config.params.generator := by
  have hq : ((Config.params.q : Nat) : Coord) = 0 := ZMod.natCast_self _
  refine ⟨Config.params_wellFormed.genX_lt, Config.params_wellFormed.genY_lt, ?_⟩
  have h := Config.params_wellFormed.gen_onCurve
  simp only [onCurve, decide_eq_true_eq] at h
  have h' := congrArg (Nat.cast (R := Coord)) h
  simp only [cast_addMod hq, cast_mulMod hq] at h'
  linear_combination h'

theorem generator_inSubgroup : InSubgroup Config.params.generator := ⟨1, rfl⟩

/-! ### The shapes: what a witness shows -/

/-- The hypotheses of a command with one operand and a destination, in `mixed`. -/
def MeetsUnary {α β : Type} (A : Form α) (B : Form β) (rd ra : CellIdx) (a : α) : Prop :=
  mixed.flt = false ∧ A.valid a ∧ holds mixed ra (A.cells a) ∧ fits rd B.width

/-- The hypotheses of a command with two operands and a destination, in `mixed`. -/
def MeetsBinary {α β γ : Type} (A : Form α) (B : Form β) (C : Form γ) (rd ra rb : CellIdx) (a : α) (b : β) : Prop :=
  mixed.flt = false ∧ A.valid a ∧ B.valid b ∧ holds mixed ra (A.cells a) ∧ holds mixed rb (B.cells b) ∧ fits rd C.width

/-- The hypotheses of a predicate command with two operands, in `mixed`. -/
def MeetsCompare {α : Type} (A : Form α) (ra rb : CellIdx) (a b : α) : Prop :=
  mixed.flt = false ∧ A.valid a ∧ A.valid b ∧ holds mixed ra (A.cells a) ∧ holds mixed rb (A.cells b)

/-- The hypotheses of a command over two vectors, in `mixed`. -/
def MeetsVectors {α : Type} (A : Form α) (rd ra rb : CellIdx) (n : Imm) (as bs : List α) : Prop :=
  mixed.flt = false ∧ as.length = n.toNat ∧ bs.length = n.toNat ∧ (∀ a ∈ as, A.valid a) ∧ (∀ b ∈ bs, A.valid b) ∧
    holds mixed ra (as.flatMap A.cells) ∧ holds mixed rb (bs.flatMap A.cells) ∧ fits rd A.width

section
variable {α β γ : Type} {A : Form α} {B : Form β} {C : Form γ} {rd ra rb : CellIdx} {n : Imm} {a : α} {b : β}

theorem meetsUnary (ha : A.valid a) (h : ra.toNat + (A.cells a).length ≤ 256)
    (hv : mixedCells ra.toNat (A.cells a).length = A.cells a) (hd : rd.toNat + B.width ≤ 256) :
    MeetsUnary A B rd ra a := ⟨rfl, ha, mixed_holds h hv, hd⟩

theorem meetsBinary (ha : A.valid a) (hb : B.valid b) (h1 : ra.toNat + (A.cells a).length ≤ 256)
    (hv1 : mixedCells ra.toNat (A.cells a).length = A.cells a) (h2 : rb.toNat + (B.cells b).length ≤ 256)
    (hv2 : mixedCells rb.toNat (B.cells b).length = B.cells b) (hd : rd.toNat + C.width ≤ 256) :
    MeetsBinary A B C rd ra rb a b := ⟨rfl, ha, hb, mixed_holds h1 hv1, mixed_holds h2 hv2, hd⟩

theorem meetsCompare {b : α} (ha : A.valid a) (hb : A.valid b) (h1 : ra.toNat + (A.cells a).length ≤ 256)
    (hv1 : mixedCells ra.toNat (A.cells a).length = A.cells a) (h2 : rb.toNat + (A.cells b).length ≤ 256)
    (hv2 : mixedCells rb.toNat (A.cells b).length = A.cells b) : MeetsCompare A ra rb a b :=
  ⟨rfl, ha, hb, mixed_holds h1 hv1, mixed_holds h2 hv2⟩

theorem both (ha : A.valid a) : ∀ x ∈ [a, a], A.valid x := by simp [ha]

theorem meetsVectors {as bs : List α} (hn : as.length = n.toNat) (hn' : bs.length = n.toNat) (ha : ∀ a ∈ as, A.valid a)
    (hb : ∀ b ∈ bs, A.valid b) (h1 : ra.toNat + (as.flatMap A.cells).length ≤ 256)
    (hv1 : mixedCells ra.toNat (as.flatMap A.cells).length = as.flatMap A.cells)
    (h2 : rb.toNat + (bs.flatMap A.cells).length ≤ 256)
    (hv2 : mixedCells rb.toNat (bs.flatMap A.cells).length = bs.flatMap A.cells) (hd : rd.toNat + A.width ≤ 256) :
    MeetsVectors A rd ra rb n as bs := ⟨rfl, hn, hn', ha, hb, mixed_holds h1 hv1, mixed_holds h2 hv2, hd⟩

end

/-! ### Elements of 0 and 1 -/

/-- The elements with every coefficient 0, with every coefficient 1, and one. -/
def z2 : Fq2 := ⟨0, 0⟩
def u2 : Fq2 := ⟨1, 1⟩
def i2 : Fq2 := ⟨1, 0⟩
def z6 : Fq6 := ⟨z2, z2, z2⟩
def u6 : Fq6 := ⟨u2, u2, u2⟩
def i6 : Fq6 := ⟨i2, z2, z2⟩
def z12 : Fq12 := ⟨z6, z6⟩
def u12 : Fq12 := ⟨u6, u6⟩
def i12 : Fq12 := ⟨i6, z6⟩

theorem z2_valid : z2.Reduced Config.params.q := ⟨Config.q_pos, Config.q_pos⟩
theorem u2_valid : u2.Reduced Config.params.q := ⟨Config.one_lt_q, Config.one_lt_q⟩
theorem i2_valid : i2.Reduced Config.params.q := ⟨Config.one_lt_q, Config.q_pos⟩
theorem z6_valid : z6.Reduced Config.params.q := ⟨z2_valid, z2_valid, z2_valid⟩
theorem u6_valid : u6.Reduced Config.params.q := ⟨u2_valid, u2_valid, u2_valid⟩
theorem i6_valid : i6.Reduced Config.params.q := ⟨i2_valid, z2_valid, z2_valid⟩
theorem z12_valid : z12.Reduced Config.params.q := ⟨z6_valid, z6_valid⟩
theorem u12_valid : u12.Reduced Config.params.q := ⟨u6_valid, u6_valid⟩
theorem i12_valid : i12.Reduced Config.params.q := ⟨i6_valid, z6_valid⟩

end Sys2Proof.Tests
end

