-- ==== Sys2Proof/Tests/WitnessesMachine.lean ====
section
/-! SUPPORT. States and words that meet the hypotheses of the statements about decoding, transactions, reset, faults and
frames: legal and illegal words, both values of `FLT`, every fault cause. -/

namespace Sys2Proof.Tests

open Sys2Proof.Machine

set_option Elab.async false

/-! ### States -/

/-- The block after reset, with these events to come. -/
def resetWith (es : List HostEvent) : State := { State.reset with inbox := es }

/-- A block that has latched `ILLEGAL` for the word 0. -/
def faulted (es : List HostEvent) : State := { State.reset with status := 0x0110, inbox := es }

/-- Cell 255 holds `q` and cell 2 holds 2; no other cell is valid. -/
def spoilt : State := { State.reset with cells := [(2, 2), (255, Config.params.q)] }

/-- `LIMBS` limbs of 0. -/
def zeroPayload : List Limb := List.replicate Config.params.limbs 0

theorem reset_inv : State.reset.Inv where
  store := ⟨List.Pairwise.nil, nofun⟩
  fits _ _ h := by simp [State.reset] at h
  reserved := rfl
  legendre := by decide
  code := by decide
  latch := by decide
  clear _ := rfl

/-- The invariant does not speak of the host's events. -/
theorem resetWith_inv (es : List HostEvent) : (resetWith es).Inv :=
  ⟨reset_inv.1, reset_inv.2, reset_inv.3, reset_inv.4, reset_inv.5, reset_inv.6, reset_inv.7⟩

/-! ### The command word -/

/-- Both ends of the selector, the largest immediate, the largest cell. -/
theorem test_witness_DecodeEncode :
    (Instr.pdec 0 255 1).wellFormed = true ∧ (Instr.pdec 255 0 0).wellFormed = true ∧
      (Instr.mov 255 255 0xFFFF).wellFormed = true := by decide

theorem test_witness_EncodeDecode :
    decode 0x00010000FF00054D = .ok (.pdec 0 255 1) ∧ decode 0xFFFF0000FFFF0F03 = .ok (.mov 255 255 0xFFFF) := by
  decide +kernel

/-! ### Transactions -/

/-- A command with no payload and one with. -/
theorem test_witness_StepRunsDecodedCommand :
    ((resetWith [.command 0x0000000000000F00 []]).flt = false ∧ decode 0x0000000000000F00 = .ok .nop ∧
      ([] : List Limb).length = (if takesPayload .nop then Config.params.limbs else 0) ∧
      exec .nop { resetWith [] with word := 0x0000000000000F00 } =
        .next { resetWith [] with word := 0x0000000000000F00 }) ∧
    (decode 0x0000000000FF0F01 = .ok (.ld 255) ∧
      zeroPayload.length = (if takesPayload (.ld 255) then Config.params.limbs else 0) ∧
      ∃ t, exec (.ld 255) { resetWith [] with word := 0x0000000000FF0F01, payload := zeroPayload } = .next t) := by
  have hl : zeroPayload.length = Config.params.limbs := List.length_replicate
  refine ⟨⟨rfl, rfl, rfl, rfl⟩, rfl, hl, ?_⟩
  rw [exec, execLd, ldCommand, command_run rfl (by rfl), if_pos hl]
  exact ⟨_, rfl⟩

/-- A legal word, a legal word with a payload, an illegal word. -/
theorem test_witness_EveryTransactionAnswered :
    payloadLegal Config.params.limbs 0x0000000000000F00 [] = true ∧
    payloadLegal Config.params.limbs 0x0000000000FF0F01 zeroPayload = true ∧
    payloadLegal Config.params.limbs 0xFFFFFFFFFFFFFFFF [] = true := by
  refine ⟨rfl, ?_, rfl⟩
  show decide (zeroPayload.length = Config.params.limbs) = true
  simp [zeroPayload]

/-- A limb with `nop`, and an `ld` one limb short. -/
theorem test_witness_BadPayloadRefused :
    payloadLegal Config.params.limbs 0x0000000000000F00 [0] = false ∧
    payloadLegal Config.params.limbs 0x0000000000FF0F01 (List.replicate (Config.params.limbs - 1) 0) = false ∧
    step (resetWith [.command 0x0000000000000F00 [0]]) = .refused .badPayload := by
  refine ⟨rfl, ?_, rfl⟩
  show decide ((List.replicate (Config.params.limbs - 1) (0 : Limb)).length = Config.params.limbs) = false
  have h1 := Config.params_wellFormed.width_eq
  have h2 := Config.params_wellFormed.sixteen_le
  simp only [List.length_replicate, decide_eq_false_iff_not]
  omega

/-! ### Reset and the invariant -/

theorem test_witness_ResetEvent : (faulted [.reset, .reset]).inbox = .reset :: [.reset] := rfl

/-- A write, a fault and a reset from states with the invariant. -/
theorem test_witness_StepKeepsInv :
    ((resetWith [.command 0x0007000000FF0F04 []]).Inv ∧
      ∃ t, step (resetWith [.command 0x0007000000FF0F04 []]) = .next t) ∧
    ((resetWith [.command 0 []]).Inv ∧ ∃ t, step (resetWith [.command 0 []]) = .next t) ∧
    (resetWith [.reset]).Inv ∧ ∃ t, step (resetWith [.reset]) = .next t :=
  ⟨⟨resetWith_inv _, _, rfl⟩, ⟨resetWith_inv _, _, rfl⟩, resetWith_inv _, _, rfl⟩

/-! ### Faults -/

/-- `isz.fq 255` right after reset reads a cell that holds no value. -/
theorem reset_unwritten : firstViolation (.iszFq 255) State.reset.cells .unwritten := by
  refine ⟨?_, ?_⟩
  · simp [violates, instrSources, Source.unwritten, fqAt, sourceWidth, State.reset]
  · rintro (_ | _ | _ | _ | _) h
    · exact Bool.noConfusion h
    · simp [violates, instrSources, instrResult, Source.passesEnd, fqAt, sourceWidth] at h
    all_goals decide

/-- The causes `ILLEGAL`, of a word that does not decode, and `UNWRITTEN`, of `isz.fq 255`; both transactions fault. -/
theorem test_witness_FaultEntryPrecise :
    (payloadLegal Config.params.limbs 0 [] = true ∧ (resetWith [.command 0 []]).flt = false ∧
      faultCause 0 (resetWith [.command 0 []]).cells .illegal ∧
      ∃ t, step (resetWith [.command 0 []]) = .next t ∧ t.flt = true) ∧
    payloadLegal Config.params.limbs 0x00000000FF000012 [] = true ∧
      (resetWith [.command 0x00000000FF000012 []]).flt = false ∧
      faultCause 0x00000000FF000012 (resetWith [.command 0x00000000FF000012 []]).cells .unwritten ∧
      ∃ t, step (resetWith [.command 0x00000000FF000012 []]) = .next t ∧ t.flt = true ∧ t.fcode = 3 :=
  ⟨⟨rfl, rfl, rfl, _, rfl, rfl⟩, rfl, rfl, reset_unwritten, _, rfl, rfl, rfl⟩

/-- An illegal word and a legal one, refused alike. -/
theorem test_witness_RefusedWhileFaulted :
    (faulted []).flt = true ∧ payloadLegal Config.params.limbs 0 [] = true ∧
      payloadLegal Config.params.limbs 0x0000000000000F00 [] = true := ⟨rfl, rfl, rfl⟩

/-- A command does not clear the latch, a reset does. -/
theorem test_witness_FaultLatchHolds :
    ((faulted [.command 0x0000000000000F00 [], .reset]).flt = true ∧
      (∀ e ∈ (faulted [.command 0x0000000000000F00 [], .reset]).inbox.take 1, e ≠ .reset) ∧
      ∃ t, Host.Core.run Sys2Proof.core 1 (faulted [.command 0x0000000000000F00 [], .reset]) = .next t) ∧
    ∃ t, (faulted [.reset]).flt = true ∧ step (faulted [.reset]) = .next t ∧ t.flt = false := by
  refine ⟨⟨rfl, ?_, _, rfl⟩, _, rfl, rfl, rfl⟩
  intro e he
  simp only [faulted, List.take_succ_cons, List.take_zero, List.mem_singleton] at he
  rw [he]; nofun

/-- A step that changes `FCMD` by a fault, and one that clears it by a reset. -/
theorem test_witness_FcmdHoldsFaultingWord :
    (resetWith [.command 5 []]).Inv ∧
    (∃ t, step (resetWith [.command 5 []]) = .next t ∧ (resetWith [.command 5 []]).flt = false ∧ t.flt = true ∧
      t.fcmd ≠ (resetWith [.command 5 []]).fcmd) ∧
    ({ faulted [.reset] with fcmd := 5 } : State).Inv ∧
    ∃ t, step { faulted [.reset] with fcmd := 5 } = .next t ∧ t.flt = false ∧ t.fcmd ≠ 5 :=
  ⟨resetWith_inv _, ⟨_, rfl, rfl, rfl, by decide⟩,
    ⟨reset_inv.1, reset_inv.2, by decide, by decide, by decide, by decide, fun h => absurd h (by decide)⟩,
    _, rfl, rfl, by decide⟩

theorem test_witness_IllegalWordFaults :
    (resetWith [.command 0x0000000000001F00 []]).flt = false ∧ decode 0x0000000000001F00 = .error .reservedBit :=
  ⟨rfl, rfl⟩

/-- A state in which each of the five causes is the first. -/
theorem test_witness_FaultPriority :
    spoilt.flt = false ∧
    firstViolation (.pdec 255 255 2) spoilt.cells .illegal ∧ firstViolation (.zeroFq2 255) spoilt.cells .range ∧
    firstViolation (.iszFq 254) spoilt.cells .unwritten ∧
    firstViolation (.aisz 0) (writeCells spoilt.cells 0 [0, 0]) .badFlag ∧
    firstViolation (.iszFq 255) spoilt.cells .unreduced ∧
    exec (.iszFq 254) spoilt = .next (takeFault .unwritten spoilt) := by
  have hq := Config.seven_le_q
  refine ⟨rfl, ⟨rfl, ?_⟩, ⟨?_, ?_⟩, ⟨?_, ?_⟩, ⟨?_, ?_⟩, ⟨?_, ?_⟩, rfl⟩
  · rintro (_ | _ | _ | _ | _) - <;> decide
  · simp [violates, instrSources, instrResult, Source.passesEnd, fqCellsAt, sourceWidth]
  · rintro (_ | _ | _ | _ | _) h <;> first | decide | exact Bool.noConfusion h
  · simp [violates, instrSources, Source.unwritten, fqAt, sourceWidth, spoilt, readCell]
  · rintro (_ | _ | _ | _ | _) h
    · exact Bool.noConfusion h
    · simp [violates, instrSources, instrResult, Source.passesEnd, fqAt, sourceWidth] at h
    all_goals decide
  · simp only [violates, instrSources, List.mem_singleton, exists_eq_left, Source.badFlag]
    exact ⟨2, by decide, 2, rfl, rfl, by decide⟩
  · rintro (_ | _ | _ | _ | _) h
    · exact Bool.noConfusion h
    · simp [violates, instrSources, instrResult, Source.passesEnd, affAt, sourceWidth] at h
    · simp only [violates, instrSources, List.mem_singleton, exists_eq_left, Source.unwritten] at h
      obtain ⟨j, hj, h⟩ := h
      replace hj : j < 3 := hj
      interval_cases j <;> exact absurd h nofun
    all_goals decide
  · simp only [violates, instrSources, List.mem_singleton, exists_eq_left, Source.unreduced]
    exact ⟨0, by decide, Config.params.q, Config.params.q, rfl, rfl, le_rfl⟩
  · rintro (_ | _ | _ | _ | _) h
    · exact Bool.noConfusion h
    · simp [violates, instrSources, instrResult, Source.passesEnd, fqAt, sourceWidth] at h
    · simp [violates, instrSources, Source.unwritten, fqAt, sourceWidth, spoilt, readCell] at h
    · simp [violates, instrSources, Source.badFlag, fqAt, sourceWidth, Source.kindAt, Nat.mod_one] at h
    · decide

/-! ### Every command -/

/-- The last cell as a source and as a destination; a payload. -/
theorem test_witness_EveryCommandCompletes :
    mixed.flt = false ∧ passesChecks (.addFq 255 255 0) mixed.cells ∧
    passesChecks (.ld 255) State.reset.cells ∧ zeroPayload.length = Config.params.limbs := by
  have h1 := elem_checks (primeElem_form Config.params.q) (s := mixed) (i := 255) (a := 0) Config.q_pos
    (mixed_holds (by decide) rfl)
  have h2 := elem_checks (primeElem_form Config.params.q) (s := mixed) (i := 0) (a := 1) Config.one_lt_q
    (mixed_holds (by decide) rfl)
  refine ⟨rfl, ?_, ?_, List.length_replicate⟩
  · rintro (_ | _ | _ | _ | _) h
    · exact Bool.noConfusion h
    · rcases h with ⟨o, ho, h⟩ | ⟨o, ho, h⟩
      · simp only [instrSources, List.mem_cons, List.not_mem_nil, or_false] at ho
        rcases ho with rfl | rfl
        exacts [h1.1 h, h2.1 h]
      · simp only [instrResult, Option.mem_def, Option.some.injEq] at ho
        subst ho; simp [Source.passesEnd, fqAt, sourceWidth] at h
    all_goals
      obtain ⟨o, ho, h⟩ := h
      simp only [instrSources, List.mem_cons, List.not_mem_nil, or_false] at ho
    · rcases ho with rfl | rfl
      exacts [h1.2.1 h, h2.2.1 h]
    · rcases ho with rfl | rfl
      exacts [h1.2.2.1 h, h2.2.2.1 h]
    · rcases ho with rfl | rfl
      exacts [h1.2.2.2 h, h2.2.2.2 h]
  · rintro (_ | _ | _ | _ | _) h
    · exact Bool.noConfusion h
    · simp [violates, instrSources, instrResult, Source.passesEnd, rawAt, sourceWidth] at h
    all_goals simp [violates, instrSources] at h

/-- A command that completes, one that faults, one that is refused. -/
theorem test_witness_CellFrame :
    (∃ t, exec (.ldi 255 7) State.reset = .next t ∧ ¬ writesCell (.ldi 255 7) 254) ∧
    (∃ t, exec (.iszFq 255) State.reset = .next t ∧ t.flt = true ∧ ¬ writesCell (.iszFq 255) 255) ∧
    ∃ t, exec (.ldi 255 7) (faulted []) = .next t ∧ t.cells = [] := by
  refine ⟨⟨_, rfl, ?_⟩, ⟨_, rfl, rfl, ?_⟩, _, rfl, rfl⟩ <;>
    simp [writesCell, instrResult, Source.covers, rawAt, sourceWidth]

/-- Commands that write no flag, complete or fault. -/
theorem test_witness_FlagFrame :
    (∃ t, exec (.ldi 255 7) State.reset = .next t ∧ t.flt = State.reset.flt) ∧
    (∃ t, exec (.iszFq 255) State.reset = .next t ∧ t.flt ≠ State.reset.flt) ∧
    writesT (.ldi 255 7) = false ∧ writesN (.ldi 255 7) = false ∧ writesL (.ldi 255 7) = false :=
  ⟨⟨_, rfl, rfl⟩, ⟨_, rfl, by decide⟩, rfl, rfl, rfl⟩

theorem test_witness_PortFrame :
    ∃ t, exec (.ldi 255 7) State.reset = .next t ∧ sendsPayload (.ldi 255 7) = false ∧
      drawsFree (.ldi 255 7) = false := ⟨_, rfl, rfl, rfl⟩

/-- Two stores that differ outside the source, for a command that completes and for one that faults. -/
theorem test_witness_ReadsOnlySources :
    ((∀ o ∈ instrSources (.mov 1 0 1), ∀ c, o.covers c →
        readCell (State.reset.write 0 [1, 5]).cells c = readCell (State.reset.write 0 [1]).cells c) ∧
      ∃ t, exec (.mov 1 0 1) (State.reset.write 0 [1, 5]) = .next t ∧ t.flt = false) ∧
    (∀ o ∈ instrSources (.iszFq 255), ∀ c, o.covers c →
        readCell (State.reset.write 0 [1]).cells c = readCell State.reset.cells c) ∧
      ∃ t, exec (.iszFq 255) (State.reset.write 0 [1]) = .next t ∧ t.flt = true := by
  refine ⟨⟨?_, _, rfl, rfl⟩, ?_, _, rfl, rfl⟩
  · intro o ho c hc
    simp only [instrSources, List.mem_singleton] at ho
    subst ho
    obtain rfl : c = 0 := Nat.le_zero.mp (Nat.lt_succ_iff.mp hc.2)
    rfl
  · intro o ho c hc
    simp only [instrSources, List.mem_singleton] at ho
    subst ho
    obtain rfl : c = 255 := Nat.le_antisymm (Nat.lt_succ_iff.mp hc.2) hc.1
    rfl

theorem test_witness_ResultsReadBack :
    ∃ t d, exec (.ldi 255 7) State.reset = .next t ∧ State.reset.flt = false ∧ t.flt = false ∧
      instrResult (.ldi 255 7) = some d ∧ (writesN (.ldi 255 7) = true → t.flagN = false) ∧ 0 < sourceWidth d :=
  ⟨_, _, rfl, rfl, rfl, rfl, nofun, by decide⟩

/-- `inv.fq` of 0, which answers `None`, and of 1, which answers a value. -/
theorem test_witness_NoneOutcome :
    writesN (.invFq 255 0) = true ∧ instrResult (.invFq 255 0) = some (fqAt 255) ∧
    (∃ t, exec (.invFq 255 255) mixed = .next t ∧ t.flt = false ∧ t.flagN = true) ∧
    ∃ t, exec (.invFq 255 0) mixed = .next t ∧ t.flt = false ∧ t.flagN = false := by
  have h0 := partialUnaryCommand_next (primeElem_form Config.params.q) (primeElem_form Config.params.q)
    (invMod Config.params.q) (s := mixed) (rd := 255) (ra := 255) (a := 0) rfl Config.q_pos
    (mixed_holds (by decide) rfl) (Nat.le_of_ble_eq_true rfl)
  have h1 := partialUnaryCommand_next (primeElem_form Config.params.q) (primeElem_form Config.params.q)
    (invMod Config.params.q) (s := mixed) (rd := 255) (ra := 0) (a := 1) rfl Config.one_lt_q
    (mixed_holds (by decide) rfl) (Nat.le_of_ble_eq_true rfl)
  refine ⟨rfl, rfl, ⟨_, h0, ?_⟩, _, h1, ?_⟩
  · rw [invMod, if_pos rfl]; exact ⟨rfl, rfl⟩
  · rw [invMod, if_neg Nat.one_ne_zero]; exact ⟨rfl, rfl⟩

end Sys2Proof.Tests
end

