-- ==== Sys2Proof/Tests/WitnessesOperands.lean ====
section
/-! SUPPORT. The operands that meet the hypotheses of the result statements, instruction by instruction group. -/

namespace Sys2Proof.Tests

open Sys2Proof.Machine

set_option Elab.async false

theorem test_witness_ConstantResults :
    mixed.flt = false ∧
    fits 255 rawForm.width ∧
    fits 254 fq2Form.width ∧
    fits 250 fq6Form.width ∧
    fits 244 fq12Form.width ∧
    fits 253 jacForm.width ∧
    fits 253 affForm.width :=
  ⟨rfl,
    Nat.le_of_ble_eq_true rfl,
    Nat.le_of_ble_eq_true rfl,
    Nat.le_of_ble_eq_true rfl,
    Nat.le_of_ble_eq_true rfl,
    Nat.le_of_ble_eq_true rfl,
    Nat.le_of_ble_eq_true rfl⟩

/-- A zero, a one and another element of each field. -/
theorem test_witness_ZeroOneEqTests :
    MeetsCompare (primeForm Config.params.q) 255 0 0 1 ∧
    MeetsCompare (primeForm Config.params.q) 0 255 1 0 ∧
    MeetsCompare (primeForm Config.params.r) 255 0 0 1 ∧
    MeetsCompare (primeForm Config.params.r) 0 255 1 0 ∧
    MeetsCompare fq2Form 254 0 z2 u2 ∧
    MeetsCompare fq2Form 127 254 i2 z2 ∧
    MeetsCompare fq6Form 250 0 z6 u6 ∧
    MeetsCompare fq6Form 127 250 i6 z6 ∧
    MeetsCompare fq12Form 244 0 z12 u12 ∧
    MeetsCompare fq12Form 127 244 i12 z12 :=
  ⟨meetsCompare Config.q_pos Config.one_lt_q (Nat.le_of_ble_eq_true rfl) rfl (Nat.le_of_ble_eq_true rfl) rfl,
    meetsCompare Config.one_lt_q Config.q_pos (Nat.le_of_ble_eq_true rfl) rfl (Nat.le_of_ble_eq_true rfl) rfl,
    meetsCompare Config.r_pos Config.one_lt_r (Nat.le_of_ble_eq_true rfl) rfl (Nat.le_of_ble_eq_true rfl) rfl,
    meetsCompare Config.one_lt_r Config.r_pos (Nat.le_of_ble_eq_true rfl) rfl (Nat.le_of_ble_eq_true rfl) rfl,
    meetsCompare z2_valid u2_valid (Nat.le_of_ble_eq_true rfl) rfl (Nat.le_of_ble_eq_true rfl) rfl,
    meetsCompare i2_valid z2_valid (Nat.le_of_ble_eq_true rfl) rfl (Nat.le_of_ble_eq_true rfl) rfl,
    meetsCompare z6_valid u6_valid (Nat.le_of_ble_eq_true rfl) rfl (Nat.le_of_ble_eq_true rfl) rfl,
    meetsCompare i6_valid z6_valid (Nat.le_of_ble_eq_true rfl) rfl (Nat.le_of_ble_eq_true rfl) rfl,
    meetsCompare z12_valid u12_valid (Nat.le_of_ble_eq_true rfl) rfl (Nat.le_of_ble_eq_true rfl) rfl,
    meetsCompare i12_valid z12_valid (Nat.le_of_ble_eq_true rfl) rfl (Nat.le_of_ble_eq_true rfl) rfl⟩

theorem test_witness_AddSubResults :
    MeetsBinary (primeForm Config.params.q) (primeForm Config.params.q) (primeForm Config.params.q) 255 0 255 1 0 ∧
    MeetsBinary (primeForm Config.params.r) (primeForm Config.params.r) (primeForm Config.params.r) 255 0 255 1 0 ∧
    MeetsBinary fq2Form fq2Form fq2Form 254 0 254 u2 z2 ∧
    MeetsBinary fq6Form fq6Form fq6Form 250 0 250 u6 z6 ∧
    MeetsBinary fq12Form fq12Form fq12Form 244 0 244 u12 z12 :=
  ⟨meetsBinary Config.one_lt_q Config.q_pos (Nat.le_of_ble_eq_true rfl) rfl (Nat.le_of_ble_eq_true rfl) rfl (Nat.le_of_ble_eq_true rfl),
    meetsBinary Config.one_lt_r Config.r_pos (Nat.le_of_ble_eq_true rfl) rfl (Nat.le_of_ble_eq_true rfl) rfl (Nat.le_of_ble_eq_true rfl),
    meetsBinary u2_valid z2_valid (Nat.le_of_ble_eq_true rfl) rfl (Nat.le_of_ble_eq_true rfl) rfl (Nat.le_of_ble_eq_true rfl),
    meetsBinary u6_valid z6_valid (Nat.le_of_ble_eq_true rfl) rfl (Nat.le_of_ble_eq_true rfl) rfl (Nat.le_of_ble_eq_true rfl),
    meetsBinary u12_valid z12_valid (Nat.le_of_ble_eq_true rfl) rfl (Nat.le_of_ble_eq_true rfl) rfl (Nat.le_of_ble_eq_true rfl)⟩

theorem test_witness_NegDblResults :
    MeetsUnary (primeForm Config.params.q) (primeForm Config.params.q) 255 255 0 ∧
    MeetsUnary (primeForm Config.params.q) (primeForm Config.params.q) 255 0 1 ∧
    MeetsUnary (primeForm Config.params.r) (primeForm Config.params.r) 255 255 0 ∧
    MeetsUnary (primeForm Config.params.r) (primeForm Config.params.r) 255 0 1 ∧
    MeetsUnary fq2Form fq2Form 254 254 z2 ∧
    MeetsUnary fq2Form fq2Form 254 0 u2 ∧
    MeetsUnary fq6Form fq6Form 250 250 z6 ∧
    MeetsUnary fq6Form fq6Form 250 0 u6 ∧
    MeetsUnary fq12Form fq12Form 244 244 z12 ∧
    MeetsUnary fq12Form fq12Form 244 0 u12 :=
  ⟨meetsUnary Config.q_pos (Nat.le_of_ble_eq_true rfl) rfl (Nat.le_of_ble_eq_true rfl),
    meetsUnary Config.one_lt_q (Nat.le_of_ble_eq_true rfl) rfl (Nat.le_of_ble_eq_true rfl),
    meetsUnary Config.r_pos (Nat.le_of_ble_eq_true rfl) rfl (Nat.le_of_ble_eq_true rfl),
    meetsUnary Config.one_lt_r (Nat.le_of_ble_eq_true rfl) rfl (Nat.le_of_ble_eq_true rfl),
    meetsUnary z2_valid (Nat.le_of_ble_eq_true rfl) rfl (Nat.le_of_ble_eq_true rfl),
    meetsUnary u2_valid (Nat.le_of_ble_eq_true rfl) rfl (Nat.le_of_ble_eq_true rfl),
    meetsUnary z6_valid (Nat.le_of_ble_eq_true rfl) rfl (Nat.le_of_ble_eq_true rfl),
    meetsUnary u6_valid (Nat.le_of_ble_eq_true rfl) rfl (Nat.le_of_ble_eq_true rfl),
    meetsUnary z12_valid (Nat.le_of_ble_eq_true rfl) rfl (Nat.le_of_ble_eq_true rfl),
    meetsUnary u12_valid (Nat.le_of_ble_eq_true rfl) rfl (Nat.le_of_ble_eq_true rfl)⟩

theorem test_witness_PrimeProductResults :
    MeetsBinary (primeForm Config.params.q) (primeForm Config.params.q) (primeForm Config.params.q) 255 0 255 1 0 ∧
    MeetsBinary (primeForm Config.params.r) (primeForm Config.params.r) (primeForm Config.params.r) 255 0 255 1 0 ∧
    MeetsUnary (primeForm Config.params.q) (primeForm Config.params.q) 255 0 1 ∧
    MeetsUnary (primeForm Config.params.r) (primeForm Config.params.r) 255 0 1 ∧
    MeetsUnary rawForm (primeForm Config.params.q) 255 255 0 ∧
    MeetsUnary rawForm (primeForm Config.params.r) 255 0 1 :=
  ⟨meetsBinary Config.one_lt_q Config.q_pos (Nat.le_of_ble_eq_true rfl) rfl (Nat.le_of_ble_eq_true rfl) rfl (Nat.le_of_ble_eq_true rfl),
    meetsBinary Config.one_lt_r Config.r_pos (Nat.le_of_ble_eq_true rfl) rfl (Nat.le_of_ble_eq_true rfl) rfl (Nat.le_of_ble_eq_true rfl),
    meetsUnary Config.one_lt_q (Nat.le_of_ble_eq_true rfl) rfl (Nat.le_of_ble_eq_true rfl),
    meetsUnary Config.one_lt_r (Nat.le_of_ble_eq_true rfl) rfl (Nat.le_of_ble_eq_true rfl),
    meetsUnary trivial (Nat.le_of_ble_eq_true rfl) rfl (Nat.le_of_ble_eq_true rfl),
    meetsUnary trivial (Nat.le_of_ble_eq_true rfl) rfl (Nat.le_of_ble_eq_true rfl)⟩

theorem test_witness_TowerProductResults :
    MeetsBinary fq2Form fq2Form fq2Form 254 0 127 u2 i2 ∧
    MeetsUnary fq2Form fq2Form 254 254 z2 ∧
    MeetsBinary fq6Form fq6Form fq6Form 250 0 127 u6 i6 ∧
    MeetsUnary fq6Form fq6Form 250 250 z6 ∧
    MeetsBinary fq12Form fq12Form fq12Form 244 0 127 u12 i12 ∧
    MeetsUnary fq12Form fq12Form 244 244 z12 :=
  ⟨meetsBinary u2_valid i2_valid (Nat.le_of_ble_eq_true rfl) rfl (Nat.le_of_ble_eq_true rfl) rfl (Nat.le_of_ble_eq_true rfl),
    meetsUnary z2_valid (Nat.le_of_ble_eq_true rfl) rfl (Nat.le_of_ble_eq_true rfl),
    meetsBinary u6_valid i6_valid (Nat.le_of_ble_eq_true rfl) rfl (Nat.le_of_ble_eq_true rfl) rfl (Nat.le_of_ble_eq_true rfl),
    meetsUnary z6_valid (Nat.le_of_ble_eq_true rfl) rfl (Nat.le_of_ble_eq_true rfl),
    meetsBinary u12_valid i12_valid (Nat.le_of_ble_eq_true rfl) rfl (Nat.le_of_ble_eq_true rfl) rfl (Nat.le_of_ble_eq_true rfl),
    meetsUnary z12_valid (Nat.le_of_ble_eq_true rfl) rfl (Nat.le_of_ble_eq_true rfl)⟩

theorem test_witness_SparseProductResults :
    MeetsBinary fq6Form pairForm fq6Form 250 0 252 u6 (z2, z2) ∧
    MeetsBinary fq6Form pairForm fq6Form 250 250 0 z6 (u2, u2) ∧
    MeetsBinary fq12Form tripleForm fq12Form 244 0 250 u12 (z2, z2, z2) ∧
    MeetsBinary fq12Form tripleForm fq12Form 244 244 0 z12 (u2, u2, u2) :=
  ⟨meetsBinary u6_valid ⟨z2_valid, z2_valid⟩ (Nat.le_of_ble_eq_true rfl) rfl (Nat.le_of_ble_eq_true rfl) rfl (Nat.le_of_ble_eq_true rfl),
    meetsBinary z6_valid ⟨u2_valid, u2_valid⟩ (Nat.le_of_ble_eq_true rfl) rfl (Nat.le_of_ble_eq_true rfl) rfl (Nat.le_of_ble_eq_true rfl),
    meetsBinary u12_valid ⟨z2_valid, z2_valid, z2_valid⟩ (Nat.le_of_ble_eq_true rfl) rfl (Nat.le_of_ble_eq_true rfl) rfl (Nat.le_of_ble_eq_true rfl),
    meetsBinary z12_valid ⟨u2_valid, u2_valid, u2_valid⟩ (Nat.le_of_ble_eq_true rfl) rfl (Nat.le_of_ble_eq_true rfl) rfl (Nat.le_of_ble_eq_true rfl)⟩

/-- The exponents 0 and 1. -/
theorem test_witness_PowerResults :
    MeetsBinary (primeForm Config.params.q) rawForm (primeForm Config.params.q) 255 255 255 0 0 ∧
    MeetsBinary (primeForm Config.params.q) rawForm (primeForm Config.params.q) 255 0 0 1 1 ∧
    MeetsBinary (primeForm Config.params.r) rawForm (primeForm Config.params.r) 255 255 255 0 0 ∧
    MeetsBinary (primeForm Config.params.r) rawForm (primeForm Config.params.r) 255 0 0 1 1 ∧
    MeetsBinary fq2Form rawForm fq2Form 254 254 255 z2 0 ∧
    MeetsBinary fq2Form rawForm fq2Form 254 0 0 u2 1 ∧
    MeetsBinary fq6Form rawForm fq6Form 250 250 255 z6 0 ∧
    MeetsBinary fq6Form rawForm fq6Form 250 0 0 u6 1 ∧
    MeetsBinary fq12Form rawForm fq12Form 244 244 255 z12 0 ∧
    MeetsBinary fq12Form rawForm fq12Form 244 0 0 u12 1 :=
  ⟨meetsBinary Config.q_pos trivial (Nat.le_of_ble_eq_true rfl) rfl (Nat.le_of_ble_eq_true rfl) rfl (Nat.le_of_ble_eq_true rfl),
    meetsBinary Config.one_lt_q trivial (Nat.le_of_ble_eq_true rfl) rfl (Nat.le_of_ble_eq_true rfl) rfl (Nat.le_of_ble_eq_true rfl),
    meetsBinary Config.r_pos trivial (Nat.le_of_ble_eq_true rfl) rfl (Nat.le_of_ble_eq_true rfl) rfl (Nat.le_of_ble_eq_true rfl),
    meetsBinary Config.one_lt_r trivial (Nat.le_of_ble_eq_true rfl) rfl (Nat.le_of_ble_eq_true rfl) rfl (Nat.le_of_ble_eq_true rfl),
    meetsBinary z2_valid trivial (Nat.le_of_ble_eq_true rfl) rfl (Nat.le_of_ble_eq_true rfl) rfl (Nat.le_of_ble_eq_true rfl),
    meetsBinary u2_valid trivial (Nat.le_of_ble_eq_true rfl) rfl (Nat.le_of_ble_eq_true rfl) rfl (Nat.le_of_ble_eq_true rfl),
    meetsBinary z6_valid trivial (Nat.le_of_ble_eq_true rfl) rfl (Nat.le_of_ble_eq_true rfl) rfl (Nat.le_of_ble_eq_true rfl),
    meetsBinary u6_valid trivial (Nat.le_of_ble_eq_true rfl) rfl (Nat.le_of_ble_eq_true rfl) rfl (Nat.le_of_ble_eq_true rfl),
    meetsBinary z12_valid trivial (Nat.le_of_ble_eq_true rfl) rfl (Nat.le_of_ble_eq_true rfl) rfl (Nat.le_of_ble_eq_true rfl),
    meetsBinary u12_valid trivial (Nat.le_of_ble_eq_true rfl) rfl (Nat.le_of_ble_eq_true rfl) rfl (Nat.le_of_ble_eq_true rfl)⟩

/-- No product, with both vectors at cell 255, and two. -/
theorem test_witness_SumOfProductsResults :
    MeetsVectors (primeForm Config.params.q) 255 255 255 0 [] [] ∧
    MeetsVectors (primeForm Config.params.q) 255 0 254 2 [1, 1] [0, 0] ∧
    MeetsVectors (primeForm Config.params.r) 255 255 255 0 [] [] ∧
    MeetsVectors (primeForm Config.params.r) 255 0 254 2 [1, 1] [0, 0] ∧
    MeetsVectors fq2Form 254 255 255 0 [] [] ∧
    MeetsVectors fq2Form 254 0 252 2 [u2, u2] [z2, z2] ∧
    MeetsVectors fq6Form 250 255 255 0 [] [] ∧
    MeetsVectors fq6Form 250 0 244 2 [u6, u6] [z6, z6] ∧
    MeetsVectors fq12Form 244 255 255 0 [] [] ∧
    MeetsVectors fq12Form 244 0 232 2 [u12, u12] [z12, z12] :=
  ⟨meetsVectors rfl rfl (by simp) (by simp) (Nat.le_of_ble_eq_true rfl) rfl (Nat.le_of_ble_eq_true rfl) rfl (Nat.le_of_ble_eq_true rfl),
    meetsVectors rfl rfl (both Config.one_lt_q) (both Config.q_pos) (Nat.le_of_ble_eq_true rfl) rfl (Nat.le_of_ble_eq_true rfl) rfl (Nat.le_of_ble_eq_true rfl),
    meetsVectors rfl rfl (by simp) (by simp) (Nat.le_of_ble_eq_true rfl) rfl (Nat.le_of_ble_eq_true rfl) rfl (Nat.le_of_ble_eq_true rfl),
    meetsVectors rfl rfl (both Config.one_lt_r) (both Config.r_pos) (Nat.le_of_ble_eq_true rfl) rfl (Nat.le_of_ble_eq_true rfl) rfl (Nat.le_of_ble_eq_true rfl),
    meetsVectors rfl rfl (by simp) (by simp) (Nat.le_of_ble_eq_true rfl) rfl (Nat.le_of_ble_eq_true rfl) rfl (Nat.le_of_ble_eq_true rfl),
    meetsVectors rfl rfl (both u2_valid) (both z2_valid) (Nat.le_of_ble_eq_true rfl) rfl (Nat.le_of_ble_eq_true rfl) rfl (Nat.le_of_ble_eq_true rfl),
    meetsVectors rfl rfl (by simp) (by simp) (Nat.le_of_ble_eq_true rfl) rfl (Nat.le_of_ble_eq_true rfl) rfl (Nat.le_of_ble_eq_true rfl),
    meetsVectors rfl rfl (both u6_valid) (both z6_valid) (Nat.le_of_ble_eq_true rfl) rfl (Nat.le_of_ble_eq_true rfl) rfl (Nat.le_of_ble_eq_true rfl),
    meetsVectors rfl rfl (by simp) (by simp) (Nat.le_of_ble_eq_true rfl) rfl (Nat.le_of_ble_eq_true rfl) rfl (Nat.le_of_ble_eq_true rfl),
    meetsVectors rfl rfl (both u12_valid) (both z12_valid) (Nat.le_of_ble_eq_true rfl) rfl (Nat.le_of_ble_eq_true rfl) rfl (Nat.le_of_ble_eq_true rfl)⟩

/-- The operand 0, answered by `None`, and 1. -/
theorem test_witness_PrimeInverseResults :
    MeetsUnary (primeForm Config.params.q) (primeForm Config.params.q) 255 255 0 ∧
    MeetsUnary (primeForm Config.params.q) (primeForm Config.params.q) 255 0 1 ∧
    MeetsUnary (primeForm Config.params.r) (primeForm Config.params.r) 255 255 0 ∧
    MeetsUnary (primeForm Config.params.r) (primeForm Config.params.r) 255 0 1 :=
  ⟨meetsUnary Config.q_pos (Nat.le_of_ble_eq_true rfl) rfl (Nat.le_of_ble_eq_true rfl),
    meetsUnary Config.one_lt_q (Nat.le_of_ble_eq_true rfl) rfl (Nat.le_of_ble_eq_true rfl),
    meetsUnary Config.r_pos (Nat.le_of_ble_eq_true rfl) rfl (Nat.le_of_ble_eq_true rfl),
    meetsUnary Config.one_lt_r (Nat.le_of_ble_eq_true rfl) rfl (Nat.le_of_ble_eq_true rfl)⟩

/-- Zero, answered by `None`, and another element. -/
theorem test_witness_TowerInverseResults :
    MeetsUnary fq2Form fq2Form 254 254 z2 ∧
    MeetsUnary fq2Form fq2Form 254 0 u2 ∧
    MeetsUnary fq6Form fq6Form 250 250 z6 ∧
    MeetsUnary fq6Form fq6Form 250 0 u6 ∧
    MeetsUnary fq12Form fq12Form 244 244 z12 ∧
    MeetsUnary fq12Form fq12Form 244 0 u12 :=
  ⟨meetsUnary z2_valid (Nat.le_of_ble_eq_true rfl) rfl (Nat.le_of_ble_eq_true rfl),
    meetsUnary u2_valid (Nat.le_of_ble_eq_true rfl) rfl (Nat.le_of_ble_eq_true rfl),
    meetsUnary z6_valid (Nat.le_of_ble_eq_true rfl) rfl (Nat.le_of_ble_eq_true rfl),
    meetsUnary u6_valid (Nat.le_of_ble_eq_true rfl) rfl (Nat.le_of_ble_eq_true rfl),
    meetsUnary z12_valid (Nat.le_of_ble_eq_true rfl) rfl (Nat.le_of_ble_eq_true rfl),
    meetsUnary u12_valid (Nat.le_of_ble_eq_true rfl) rfl (Nat.le_of_ble_eq_true rfl)⟩

/-- A zero divisor, answered by `None`, and another. -/
theorem test_witness_DivisionResults :
    MeetsBinary (primeForm Config.params.q) (primeForm Config.params.q) (primeForm Config.params.q) 255 0 255 1 0 ∧
    MeetsBinary (primeForm Config.params.q) (primeForm Config.params.q) (primeForm Config.params.q) 255 255 0 0 1 ∧
    MeetsBinary (primeForm Config.params.r) (primeForm Config.params.r) (primeForm Config.params.r) 255 0 255 1 0 ∧
    MeetsBinary (primeForm Config.params.r) (primeForm Config.params.r) (primeForm Config.params.r) 255 255 0 0 1 ∧
    MeetsBinary fq2Form fq2Form fq2Form 254 0 254 u2 z2 ∧
    MeetsBinary fq2Form fq2Form fq2Form 254 254 0 z2 u2 ∧
    MeetsBinary fq6Form fq6Form fq6Form 250 0 250 u6 z6 ∧
    MeetsBinary fq6Form fq6Form fq6Form 250 250 0 z6 u6 ∧
    MeetsBinary fq12Form fq12Form fq12Form 244 0 244 u12 z12 ∧
    MeetsBinary fq12Form fq12Form fq12Form 244 244 0 z12 u12 :=
  ⟨meetsBinary Config.one_lt_q Config.q_pos (Nat.le_of_ble_eq_true rfl) rfl (Nat.le_of_ble_eq_true rfl) rfl (Nat.le_of_ble_eq_true rfl),
    meetsBinary Config.q_pos Config.one_lt_q (Nat.le_of_ble_eq_true rfl) rfl (Nat.le_of_ble_eq_true rfl) rfl (Nat.le_of_ble_eq_true rfl),
    meetsBinary Config.one_lt_r Config.r_pos (Nat.le_of_ble_eq_true rfl) rfl (Nat.le_of_ble_eq_true rfl) rfl (Nat.le_of_ble_eq_true rfl),
    meetsBinary Config.r_pos Config.one_lt_r (Nat.le_of_ble_eq_true rfl) rfl (Nat.le_of_ble_eq_true rfl) rfl (Nat.le_of_ble_eq_true rfl),
    meetsBinary u2_valid z2_valid (Nat.le_of_ble_eq_true rfl) rfl (Nat.le_of_ble_eq_true rfl) rfl (Nat.le_of_ble_eq_true rfl),
    meetsBinary z2_valid u2_valid (Nat.le_of_ble_eq_true rfl) rfl (Nat.le_of_ble_eq_true rfl) rfl (Nat.le_of_ble_eq_true rfl),
    meetsBinary u6_valid z6_valid (Nat.le_of_ble_eq_true rfl) rfl (Nat.le_of_ble_eq_true rfl) rfl (Nat.le_of_ble_eq_true rfl),
    meetsBinary z6_valid u6_valid (Nat.le_of_ble_eq_true rfl) rfl (Nat.le_of_ble_eq_true rfl) rfl (Nat.le_of_ble_eq_true rfl),
    meetsBinary u12_valid z12_valid (Nat.le_of_ble_eq_true rfl) rfl (Nat.le_of_ble_eq_true rfl) rfl (Nat.le_of_ble_eq_true rfl),
    meetsBinary z12_valid u12_valid (Nat.le_of_ble_eq_true rfl) rfl (Nat.le_of_ble_eq_true rfl) rfl (Nat.le_of_ble_eq_true rfl)⟩

/-- The classes of 0 and of 1. -/
theorem test_witness_LegendreResults :
    MeetsCompare (primeForm Config.params.q) 255 0 0 1 ∧
    MeetsCompare (primeForm Config.params.r) 255 0 0 1 :=
  ⟨meetsCompare Config.q_pos Config.one_lt_q (Nat.le_of_ble_eq_true rfl) rfl (Nat.le_of_ble_eq_true rfl) rfl,
    meetsCompare Config.r_pos Config.one_lt_r (Nat.le_of_ble_eq_true rfl) rfl (Nat.le_of_ble_eq_true rfl) rfl⟩

theorem test_witness_SqrtResults :
    MeetsUnary (primeForm Config.params.q) (primeForm Config.params.q) 255 255 0 ∧
    MeetsUnary (primeForm Config.params.q) (primeForm Config.params.q) 255 0 1 ∧
    MeetsUnary (primeForm Config.params.r) (primeForm Config.params.r) 255 255 0 ∧
    MeetsUnary (primeForm Config.params.r) (primeForm Config.params.r) 255 0 1 :=
  ⟨meetsUnary Config.q_pos (Nat.le_of_ble_eq_true rfl) rfl (Nat.le_of_ble_eq_true rfl),
    meetsUnary Config.one_lt_q (Nat.le_of_ble_eq_true rfl) rfl (Nat.le_of_ble_eq_true rfl),
    meetsUnary Config.r_pos (Nat.le_of_ble_eq_true rfl) rfl (Nat.le_of_ble_eq_true rfl),
    meetsUnary Config.one_lt_r (Nat.le_of_ble_eq_true rfl) rfl (Nat.le_of_ble_eq_true rfl)⟩

theorem test_witness_FrobeniusResults :
    MeetsUnary fq2Form fq2Form 254 254 z2 ∧
    MeetsUnary fq2Form fq2Form 254 0 u2 ∧
    MeetsUnary fq6Form fq6Form 250 250 z6 ∧
    MeetsUnary fq6Form fq6Form 250 0 u6 ∧
    MeetsUnary fq12Form fq12Form 244 244 z12 ∧
    MeetsUnary fq12Form fq12Form 244 0 u12 :=
  ⟨meetsUnary z2_valid (Nat.le_of_ble_eq_true rfl) rfl (Nat.le_of_ble_eq_true rfl),
    meetsUnary u2_valid (Nat.le_of_ble_eq_true rfl) rfl (Nat.le_of_ble_eq_true rfl),
    meetsUnary z6_valid (Nat.le_of_ble_eq_true rfl) rfl (Nat.le_of_ble_eq_true rfl),
    meetsUnary u6_valid (Nat.le_of_ble_eq_true rfl) rfl (Nat.le_of_ble_eq_true rfl),
    meetsUnary z12_valid (Nat.le_of_ble_eq_true rfl) rfl (Nat.le_of_ble_eq_true rfl),
    meetsUnary u12_valid (Nat.le_of_ble_eq_true rfl) rfl (Nat.le_of_ble_eq_true rfl)⟩

/-- An identity triple and another. -/
theorem test_witness_PdblResults :
    MeetsUnary jacForm jacForm 253 253 ⟨0, 0, 0⟩ ∧
    MeetsUnary jacForm jacForm 253 0 ⟨1, 1, 1⟩ :=
  ⟨meetsUnary ⟨Config.q_pos, Config.q_pos, Config.q_pos⟩ (Nat.le_of_ble_eq_true rfl) rfl (Nat.le_of_ble_eq_true rfl),
    meetsUnary ⟨Config.one_lt_q, Config.one_lt_q, Config.one_lt_q⟩ (Nat.le_of_ble_eq_true rfl) rfl (Nat.le_of_ble_eq_true rfl)⟩

/-- The identity on the left, on the right, and equal triples. -/
theorem test_witness_PaddResults :
    MeetsBinary jacForm jacForm jacForm 253 253 0 ⟨0, 0, 0⟩ ⟨1, 1, 1⟩ ∧
    MeetsBinary jacForm jacForm jacForm 253 0 126 ⟨1, 1, 1⟩ ⟨1, 1, 0⟩ ∧
    MeetsBinary jacForm jacForm jacForm 253 0 0 ⟨1, 1, 1⟩ ⟨1, 1, 1⟩ :=
  ⟨meetsBinary ⟨Config.q_pos, Config.q_pos, Config.q_pos⟩ ⟨Config.one_lt_q, Config.one_lt_q, Config.one_lt_q⟩ (Nat.le_of_ble_eq_true rfl) rfl (Nat.le_of_ble_eq_true rfl) rfl (Nat.le_of_ble_eq_true rfl),
    meetsBinary ⟨Config.one_lt_q, Config.one_lt_q, Config.one_lt_q⟩ ⟨Config.one_lt_q, Config.one_lt_q, Config.q_pos⟩ (Nat.le_of_ble_eq_true rfl) rfl (Nat.le_of_ble_eq_true rfl) rfl (Nat.le_of_ble_eq_true rfl),
    meetsBinary ⟨Config.one_lt_q, Config.one_lt_q, Config.one_lt_q⟩ ⟨Config.one_lt_q, Config.one_lt_q, Config.one_lt_q⟩ (Nat.le_of_ble_eq_true rfl) rfl (Nat.le_of_ble_eq_true rfl) rfl (Nat.le_of_ble_eq_true rfl)⟩

/-- The affine identity, the Jacobian identity, equal points and others. -/
theorem test_witness_PaddmResults :
    MeetsBinary jacForm affForm jacForm 253 0 0 ⟨1, 1, 1⟩ ⟨1, 1, 1⟩ ∧
    MeetsBinary jacForm affForm jacForm 253 253 253 ⟨0, 0, 0⟩ ⟨0, 0, 0⟩ ∧
    MeetsBinary jacForm affForm jacForm 253 0 126 ⟨1, 1, 1⟩ ⟨1, 1, 0⟩ ∧
    MeetsBinary jacForm affForm jacForm 253 0 253 ⟨1, 1, 1⟩ ⟨0, 0, 0⟩ :=
  ⟨meetsBinary ⟨Config.one_lt_q, Config.one_lt_q, Config.one_lt_q⟩ ⟨Config.one_lt_q, Config.one_lt_q, Nat.le_refl _⟩ (Nat.le_of_ble_eq_true rfl) rfl (Nat.le_of_ble_eq_true rfl) rfl (Nat.le_of_ble_eq_true rfl),
    meetsBinary ⟨Config.q_pos, Config.q_pos, Config.q_pos⟩ ⟨Config.q_pos, Config.q_pos, Nat.zero_le _⟩ (Nat.le_of_ble_eq_true rfl) rfl (Nat.le_of_ble_eq_true rfl) rfl (Nat.le_of_ble_eq_true rfl),
    meetsBinary ⟨Config.one_lt_q, Config.one_lt_q, Config.one_lt_q⟩ ⟨Config.one_lt_q, Config.one_lt_q, Nat.zero_le _⟩ (Nat.le_of_ble_eq_true rfl) rfl (Nat.le_of_ble_eq_true rfl) rfl (Nat.le_of_ble_eq_true rfl),
    meetsBinary ⟨Config.one_lt_q, Config.one_lt_q, Config.one_lt_q⟩ ⟨Config.q_pos, Config.q_pos, Nat.zero_le _⟩ (Nat.le_of_ble_eq_true rfl) rfl (Nat.le_of_ble_eq_true rfl) rfl (Nat.le_of_ble_eq_true rfl)⟩

theorem test_witness_PointTests :
    MeetsCompare jacForm 253 0 ⟨0, 0, 0⟩ ⟨1, 1, 1⟩ ∧
    MeetsCompare jacForm 253 126 ⟨0, 0, 0⟩ ⟨1, 1, 0⟩ ∧
    MeetsCompare jacForm 0 0 ⟨1, 1, 1⟩ ⟨1, 1, 1⟩ ∧
    MeetsCompare affForm 253 0 ⟨0, 0, 0⟩ ⟨1, 1, 1⟩ :=
  ⟨meetsCompare ⟨Config.q_pos, Config.q_pos, Config.q_pos⟩ ⟨Config.one_lt_q, Config.one_lt_q, Config.one_lt_q⟩ (Nat.le_of_ble_eq_true rfl) rfl (Nat.le_of_ble_eq_true rfl) rfl,
    meetsCompare ⟨Config.q_pos, Config.q_pos, Config.q_pos⟩ ⟨Config.one_lt_q, Config.one_lt_q, Config.q_pos⟩ (Nat.le_of_ble_eq_true rfl) rfl (Nat.le_of_ble_eq_true rfl) rfl,
    meetsCompare ⟨Config.one_lt_q, Config.one_lt_q, Config.one_lt_q⟩ ⟨Config.one_lt_q, Config.one_lt_q, Config.one_lt_q⟩ (Nat.le_of_ble_eq_true rfl) rfl (Nat.le_of_ble_eq_true rfl) rfl,
    meetsCompare ⟨Config.q_pos, Config.q_pos, Nat.zero_le _⟩ ⟨Config.one_lt_q, Config.one_lt_q, Nat.le_refl _⟩ (Nat.le_of_ble_eq_true rfl) rfl (Nat.le_of_ble_eq_true rfl) rfl⟩

/-- Two identity triples, an identity and a finite point, equal points. -/
theorem test_witness_PeqSamePoint :
    MeetsCompare jacForm 253 126 ⟨0, 0, 0⟩ ⟨1, 1, 0⟩ ∧
    MeetsCompare jacForm 253 0 ⟨0, 0, 0⟩ ⟨1, 1, 1⟩ ∧
    MeetsCompare jacForm 0 0 ⟨1, 1, 1⟩ ⟨1, 1, 1⟩ :=
  ⟨meetsCompare ⟨Config.q_pos, Config.q_pos, Config.q_pos⟩ ⟨Config.one_lt_q, Config.one_lt_q, Config.q_pos⟩ (Nat.le_of_ble_eq_true rfl) rfl (Nat.le_of_ble_eq_true rfl) rfl,
    meetsCompare ⟨Config.q_pos, Config.q_pos, Config.q_pos⟩ ⟨Config.one_lt_q, Config.one_lt_q, Config.one_lt_q⟩ (Nat.le_of_ble_eq_true rfl) rfl (Nat.le_of_ble_eq_true rfl) rfl,
    meetsCompare ⟨Config.one_lt_q, Config.one_lt_q, Config.one_lt_q⟩ ⟨Config.one_lt_q, Config.one_lt_q, Config.one_lt_q⟩ (Nat.le_of_ble_eq_true rfl) rfl (Nat.le_of_ble_eq_true rfl) rfl⟩

/-- The identity and a finite point for each. -/
theorem test_witness_PointConversions :
    MeetsUnary affForm affForm 253 0 ⟨1, 1, 1⟩ ∧
    MeetsUnary affForm affForm 253 253 ⟨0, 0, 0⟩ ∧
    MeetsUnary affForm jacForm 253 0 ⟨1, 1, 1⟩ ∧
    MeetsUnary affForm jacForm 253 126 ⟨1, 1, 0⟩ ∧
    MeetsUnary jacForm affForm 253 253 ⟨0, 0, 0⟩ ∧
    MeetsUnary jacForm affForm 253 0 ⟨1, 1, 1⟩ :=
  ⟨meetsUnary ⟨Config.one_lt_q, Config.one_lt_q, Nat.le_refl _⟩ (Nat.le_of_ble_eq_true rfl) rfl (Nat.le_of_ble_eq_true rfl),
    meetsUnary ⟨Config.q_pos, Config.q_pos, Nat.zero_le _⟩ (Nat.le_of_ble_eq_true rfl) rfl (Nat.le_of_ble_eq_true rfl),
    meetsUnary ⟨Config.one_lt_q, Config.one_lt_q, Nat.le_refl _⟩ (Nat.le_of_ble_eq_true rfl) rfl (Nat.le_of_ble_eq_true rfl),
    meetsUnary ⟨Config.one_lt_q, Config.one_lt_q, Nat.zero_le _⟩ (Nat.le_of_ble_eq_true rfl) rfl (Nat.le_of_ble_eq_true rfl),
    meetsUnary ⟨Config.q_pos, Config.q_pos, Config.q_pos⟩ (Nat.le_of_ble_eq_true rfl) rfl (Nat.le_of_ble_eq_true rfl),
    meetsUnary ⟨Config.one_lt_q, Config.one_lt_q, Config.one_lt_q⟩ (Nat.le_of_ble_eq_true rfl) rfl (Nat.le_of_ble_eq_true rfl)⟩

/-- The multipliers 0 and 1. -/
theorem test_witness_PmulnResults :
    MeetsBinary jacForm rawForm jacForm 253 0 255 ⟨1, 1, 1⟩ 0 ∧
    MeetsBinary jacForm rawForm jacForm 253 0 0 ⟨1, 1, 1⟩ 1 :=
  ⟨meetsBinary ⟨Config.one_lt_q, Config.one_lt_q, Config.one_lt_q⟩ trivial (Nat.le_of_ble_eq_true rfl) rfl (Nat.le_of_ble_eq_true rfl) rfl (Nat.le_of_ble_eq_true rfl),
    meetsBinary ⟨Config.one_lt_q, Config.one_lt_q, Config.one_lt_q⟩ trivial (Nat.le_of_ble_eq_true rfl) rfl (Nat.le_of_ble_eq_true rfl) rfl (Nat.le_of_ble_eq_true rfl)⟩

theorem test_witness_PmulResults :
    MeetsBinary jacForm (primeForm Config.params.r) jacForm 253 253 0 ⟨0, 0, 0⟩ 1 ∧
    MeetsBinary jacForm (primeForm Config.params.r) jacForm 253 0 255 ⟨1, 1, 1⟩ 0 ∧
    MeetsBinary jacForm (primeForm Config.params.r) jacForm 253 0 0 ⟨1, 1, 1⟩ 1 :=
  ⟨meetsBinary ⟨Config.q_pos, Config.q_pos, Config.q_pos⟩ Config.one_lt_r (Nat.le_of_ble_eq_true rfl) rfl (Nat.le_of_ble_eq_true rfl) rfl (Nat.le_of_ble_eq_true rfl),
    meetsBinary ⟨Config.one_lt_q, Config.one_lt_q, Config.one_lt_q⟩ Config.r_pos (Nat.le_of_ble_eq_true rfl) rfl (Nat.le_of_ble_eq_true rfl) rfl (Nat.le_of_ble_eq_true rfl),
    meetsBinary ⟨Config.one_lt_q, Config.one_lt_q, Config.one_lt_q⟩ Config.one_lt_r (Nat.le_of_ble_eq_true rfl) rfl (Nat.le_of_ble_eq_true rfl) rfl (Nat.le_of_ble_eq_true rfl)⟩

/-- Both selectors. -/
theorem test_witness_PdecResults :
    (0 : Imm).toNat ≤ 1 ∧
    (1 : Imm).toNat ≤ 1 ∧
    MeetsUnary (primeForm Config.params.q) affForm 253 255 0 ∧
    MeetsUnary (primeForm Config.params.q) affForm 253 0 1 :=
  ⟨Nat.le_of_ble_eq_true rfl,
    Nat.le_of_ble_eq_true rfl,
    meetsUnary Config.q_pos (Nat.le_of_ble_eq_true rfl) rfl (Nat.le_of_ble_eq_true rfl),
    meetsUnary Config.one_lt_q (Nat.le_of_ble_eq_true rfl) rfl (Nat.le_of_ble_eq_true rfl)⟩

/-- Two cells copied onto the last two, and none from cell 255 on. -/
theorem test_witness_NopLdiMovResults : mixed.flt = false ∧
    ([1, 0].length = (2 : Imm).toNat ∧ holds mixed 127 [1, 0] ∧ fits 254 2) ∧
    (([] : List Nat).length = (0 : Imm).toNat ∧ holds mixed 255 [] ∧ fits 255 0) :=
  ⟨rfl, ⟨rfl, mixed_holds (Nat.le_of_ble_eq_true rfl) rfl, Nat.le_of_ble_eq_true rfl⟩,
    ⟨rfl, mixed_holds (Nat.le_of_ble_eq_true rfl) rfl, Nat.le_of_ble_eq_true rfl⟩⟩

/-- A payload of `LIMBS` limbs, and the last cell. -/
theorem test_witness_LdStResults :
    ({ mixed with payload := List.replicate Config.params.limbs 0 }.flt = false ∧
      { mixed with payload := List.replicate Config.params.limbs 0 }.payload.length = Config.params.limbs) ∧
    (mixed.flt = false ∧ holds mixed 255 [0]) :=
  ⟨⟨rfl, List.length_replicate⟩, ⟨rfl, mixed_holds (Nat.le_of_ble_eq_true rfl) rfl⟩⟩

/-- 85 triples, the most that fit, and none at cell 255. -/
theorem test_witness_BnormResults :
    let ps : List Jacobian := List.replicate 42 ⟨1, 1, 1⟩ ++ ⟨1, 0, 0⟩ :: List.replicate 42 ⟨0, 0, 0⟩
    (mixed.flt = false ∧ ps.length = (85 : Imm).toNat ∧ (∀ P ∈ ps, P.Reduced Config.params.q) ∧
      holds mixed 1 (ps.flatMap jacForm.cells)) ∧
    (([] : List Jacobian).length = (0 : Imm).toNat ∧ holds mixed 255 (([] : List Jacobian).flatMap jacForm.cells)) := by
  refine ⟨⟨rfl, by decide, ?_, mixed_holds (by decide +kernel) (by decide +kernel)⟩, rfl,
    mixed_holds (Nat.le_of_ble_eq_true rfl) rfl⟩
  intro P hP
  simp only [List.mem_append, List.mem_replicate, List.mem_cons] at hP
  rcases hP with ⟨_, rfl⟩ | rfl | ⟨_, rfl⟩
  · exact ⟨Config.one_lt_q, Config.one_lt_q, Config.one_lt_q⟩
  · exact ⟨Config.one_lt_q, Config.q_pos, Config.q_pos⟩
  · exact ⟨Config.q_pos, Config.q_pos, Config.q_pos⟩

/-- Triples with `Z` 0 and 1, and two with another `Z`, which share the inversion. -/
theorem test_witness_BatchSharedInversion :
    ∀ P ∈ [genTriple, ⟨0, 1, 0⟩, ⟨1, 1, 2⟩, ⟨0, 1, Config.params.q - 1⟩], P.Reduced Config.params.q := by
  have h := Config.seven_le_q
  intro P hP
  simp only [List.mem_cons, List.not_mem_nil, or_false] at hP
  rcases hP with rfl | rfl | rfl | rfl
  · exact genTriple_valid
  · exact ⟨Config.q_pos, Config.one_lt_q, Config.q_pos⟩
  · exact ⟨Config.one_lt_q, Config.one_lt_q, by show 2 < Config.params.q; omega⟩
  · exact ⟨Config.q_pos, Config.one_lt_q, by show Config.params.q - 1 < Config.params.q; omega⟩

/-- A ring with roots of the three polynomials in which 0 is not 1. -/
theorem tower_nontrivial : ∃ (R : Type) (_ : CommRing R) (u v w : R), TowerRoots R u v w ∧ (0 : R) ≠ 1 := by
  have : Fact (Nat.Prime Config.params.q) := ⟨Config.q_prime⟩
  let K := AlgebraicClosure (ZMod Config.params.q)
  obtain ⟨u, hu⟩ := IsAlgClosed.exists_pow_nat_eq (Config.params.nonres2 : K) (n := 2) (by norm_num)
  obtain ⟨v, hv⟩ := IsAlgClosed.exists_pow_nat_eq (evalFq2 u Config.params.nonres6 : K) (n := 3) (by norm_num)
  obtain ⟨w, hw⟩ := IsAlgClosed.exists_pow_nat_eq (evalFq6 u v Config.params.nonres12 : K) (n := 2) (by norm_num)
  exact ⟨K, inferInstance, u, v, w, ⟨CharP.cast_eq_zero K Config.params.q, hu, hv, hw⟩, zero_ne_one⟩

theorem one_cyclotomic : InCyclotomic i12 := by
  intro R _ u v w _
  have : evalFq12 u v w i12 = 1 := eval_fq12One
  rw [this, one_pow]

theorem zero_not_cyclotomic : ¬ InCyclotomic z12 := by
  intro h
  obtain ⟨R, _, u, v, w, hr, hne⟩ := tower_nontrivial
  have h1 : evalFq12 u v w z12 ^ Config.params.r = 1 := h R u v w hr
  have h0 : evalFq12 u v w z12 = 0 := eval_fq12Zero
  rw [h0, zero_pow (by have := Config.r_pos; omega)] at h1
  exact hne h1

/-- One, and the exponents 0 and 1. -/
theorem test_witness_CyclotomicInside : mixed.flt = false ∧ i12.Reduced Config.params.q ∧
    holds mixed 127 (fq12Form.cells i12) ∧ holds mixed 255 [0] ∧ holds mixed 0 [1] ∧ fits 244 12 ∧ InCyclotomic i12 :=
  ⟨rfl, i12_valid, mixed_holds (Nat.le_of_ble_eq_true rfl) rfl, mixed_holds (Nat.le_of_ble_eq_true rfl) rfl,
    mixed_holds (Nat.le_of_ble_eq_true rfl) rfl, Nat.le_of_ble_eq_true rfl, one_cyclotomic⟩

/-- Zero, and the exponents 0 and 1. -/
theorem test_witness_CyclotomicOutside : mixed.flt = false ∧ z12.Reduced Config.params.q ∧
    holds mixed 244 (fq12Form.cells z12) ∧ holds mixed 255 [0] ∧ holds mixed 0 [1] ∧ fits 244 12 ∧
    ¬ InCyclotomic z12 :=
  ⟨rfl, z12_valid, mixed_holds (Nat.le_of_ble_eq_true rfl) rfl, mixed_holds (Nat.le_of_ble_eq_true rfl) rfl,
    mixed_holds (Nat.le_of_ble_eq_true rfl) rfl, Nat.le_of_ble_eq_true rfl, zero_not_cyclotomic⟩

/-- The identity and the generator. -/
theorem test_witness_PointGroupLaws : OnCurve none ∧ OnCurve Config.params.generator :=
  ⟨trivial, generator_onCurve⟩

/-- The generator as a triple and as an affine point in `curveState`, and an identity triple in `mixed`. -/
theorem test_witness_PointCommandsFollowGroup :
    (curveState.flt = false ∧ jacForm.valid genTriple ∧ holds curveState 0 (jacForm.cells genTriple) ∧
      affForm.valid ⟨Config.params.genX, Config.params.genY, 0⟩ ∧
      holds curveState 3 (affForm.cells ⟨Config.params.genX, Config.params.genY, 0⟩) ∧ fits 253 3 ∧
      OnCurve Config.params.generator ∧ StandsFor genTriple Config.params.generator ∧
      AffineStandsFor ⟨Config.params.genX, Config.params.genY, 0⟩ Config.params.generator) ∧
    MeetsUnary jacForm jacForm 253 253 ⟨0, 0, 0⟩ ∧ StandsFor ⟨0, 0, 0⟩ none :=
  ⟨⟨rfl, genTriple_valid, curve_holds (Nat.le_of_ble_eq_true rfl) rfl, genAffine_valid,
      curve_holds (Nat.le_of_ble_eq_true rfl) rfl, Nat.le_of_ble_eq_true rfl, generator_onCurve, genTriple_standsFor,
      ⟨Nat.zero_ne_one, rfl, rfl⟩⟩,
    meetsUnary ⟨Config.q_pos, Config.q_pos, Config.q_pos⟩ (Nat.le_of_ble_eq_true rfl) rfl (Nat.le_of_ble_eq_true rfl), rfl⟩

/-- The generator and the multipliers 1 and `r`. -/
theorem test_witness_PmulnScalarMultiple :
    curveState.flt = false ∧ jacForm.valid genTriple ∧ holds curveState 0 (jacForm.cells genTriple) ∧
    holds curveState 6 (rawForm.cells 1) ∧ holds curveState 7 (rawForm.cells Config.params.r) ∧ fits 253 3 ∧
    OnCurve Config.params.generator ∧ StandsFor genTriple Config.params.generator :=
  ⟨rfl, genTriple_valid, curve_holds (Nat.le_of_ble_eq_true rfl) rfl, curve_holds (Nat.le_of_ble_eq_true rfl) rfl,
    curve_holds (Nat.le_of_ble_eq_true rfl) rfl, Nat.le_of_ble_eq_true rfl, generator_onCurve, genTriple_standsFor⟩

/-- The generator and the scalar 1. -/
theorem test_witness_PmulScalarMultiple :
    curveState.flt = false ∧ jacForm.valid genTriple ∧ holds curveState 0 (jacForm.cells genTriple) ∧
    (primeForm Config.params.r).valid 1 ∧ holds curveState 6 ((primeForm Config.params.r).cells 1) ∧ fits 253 3 ∧
    InSubgroup Config.params.generator ∧ StandsFor genTriple Config.params.generator :=
  ⟨rfl, genTriple_valid, curve_holds (Nat.le_of_ble_eq_true rfl) rfl, Config.one_lt_r,
    curve_holds (Nat.le_of_ble_eq_true rfl) rfl, Nat.le_of_ble_eq_true rfl, generator_inSubgroup, genTriple_standsFor⟩

end Sys2Proof.Tests
end

section
/-! What one step of the block can do (20_memory.md R32), and `FCMD` along it (10_state.md R17): only fault entry and
reset write it. -/

namespace Sys2Proof.Machine

/-! ### The cases of a step -/

section
variable {w : CmdWord} {s t : State}

/-- A transaction whose command completed ends with its response. -/
theorem respondTo_eq_next_iff {r : Result} : respondTo r = .next t ↔ ∃ u, r = .next u ∧ u.respond = t := by
  cases r <;> simp [respondTo]

/-- All a transaction can answer with a next state: the response to a refused word, to an illegal one, or to a command
that was executed. -/
theorem serve_cases (h : serve w s = .next t) : ∃ u : State, t = u.respond ∧
    ((s.flt = true ∧ u = s) ∨
     (s.flt = false ∧ (∃ e, decode w = .error e) ∧ u = takeFault .illegal s) ∨
     (s.flt = false ∧ ∃ i, decode w = .ok i ∧ exec i s = .next u)) := by
  unfold serve at h
  cases hs : s.flt with
  | true =>
    rw [if_pos hs] at h
    cases h
    exact ⟨s, rfl, .inl ⟨rfl, rfl⟩⟩
  | false =>
    rw [if_neg (by simp [hs])] at h
    cases hd : decode w with
    | error e =>
      rw [hd] at h
      cases h
      exact ⟨_, rfl, .inr (.inl ⟨rfl, ⟨e, rfl⟩, rfl⟩)⟩
    | ok i =>
      rw [hd] at h
      obtain ⟨u, hu, rfl⟩ := respondTo_eq_next_iff.mp h
      exact ⟨u, rfl, .inr (.inr ⟨rfl, i, rfl, hu⟩)⟩

/-- All a step can answer with a next state, by the host's next event: nothing, reset, or a disciplined transaction. -/
theorem step_cases (h : step s = .next t) :
    (s.inbox = [] ∧ t = s) ∨
    (∃ rest, s.inbox = .reset :: rest ∧ t = resetBlock { s with inbox := rest }) ∨
    (∃ w payload rest, s.inbox = .command w payload :: rest ∧ payloadLegal Config.params.limbs w payload = true ∧
      serve w (s.begin w payload rest) = .next t) := by
  unfold step transact at h
  split at h
  next hin => cases h; exact .inl ⟨hin, rfl⟩
  next rest hin => cases h; exact .inr (.inl ⟨rest, hin, rfl⟩)
  next w payload rest hin =>
    split at h
    next hp => exact .inr (.inr ⟨w, payload, rest, hin, hp, h⟩)
    next => cases h

end

/-! ### The fault latch and `FCMD` along a command -/

/-- From `s` to `t` the fault latch and `FCMD` stay as they are, or the word `w` is the cause of a fault that was not
there before and stands in `FCMD`. -/
def LatchStep (w : CmdWord) (s t : State) : Prop :=
  (t.flt = s.flt ∧ t.fcmd = s.fcmd) ∨ (s.flt = false ∧ t.flt = true ∧ t.fcmd = w)

/-- The effect of a command that passed its checks leaves the fault latch and `FCMD` alone. -/
theorem Effect.flt_fcmd {i : Instr} {s t : State} (h : Effect i s t) : t.flt = s.flt ∧ t.fcmd = s.fcmd := by
  cases h with
  | nothing | result | send => exact ⟨rfl, rfl⟩
  | value | absent | test | legendre => simp

/-- A command word latches a fault only where none is latched, and then it is the word in `FCMD` (R336). -/
theorem exec_latchStep {i : Instr} {s t : State} (h : exec i s = .next t) : LatchStep s.word s t := by
  rcases exec_outcome h with ⟨_, rfl⟩ | ⟨hs, c, rfl⟩ | ⟨_, he⟩
  · exact .inl ⟨rfl, rfl⟩
  · exact .inr ⟨hs, takeFault_flt s c, takeFault_fcmd c s⟩
  · exact .inl he.flt_fcmd

/-- A transaction latches its own word, and its response carries `STATUS` and `FCMD` as it leaves them (R32). -/
theorem serve_latchStep {s t : State} (h : serve s.word s = .next t) :
    LatchStep s.word s t ∧ ∃ out, t.response = some ⟨t.status, t.fcmd, out⟩ := by
  obtain ⟨u, rfl, hu⟩ := serve_cases h
  have hlatch : LatchStep s.word s u := by
    rcases hu with ⟨_, rfl⟩ | ⟨hs, _, rfl⟩ | ⟨_, i, _, he⟩
    · exact .inl ⟨rfl, rfl⟩
    · exact .inr ⟨hs, takeFault_flt s .illegal, takeFault_fcmd .illegal s⟩
    · exact exec_latchStep he
  exact ⟨hlatch, u.portOut, rfl⟩

/-- A latch step keeps `FCMD` at 0 while `FLT = 0`. -/
theorem LatchStep.clear {w : CmdWord} {s t : State} (h : LatchStep w s t) (hs : s.flt = false → s.fcmd = 0)
    (ht : t.flt = false) : t.fcmd = 0 := by
  rcases h with ⟨hflt, hfcmd⟩ | ⟨_, hflt, _⟩
  · rw [hfcmd, hs (hflt ▸ ht)]
  · rw [ht] at hflt; cases hflt

/-- A fault that was not there before is that of the word. -/
theorem LatchStep.fcmd_of_fault {w : CmdWord} {s t : State} (h : LatchStep w s t) (hs : s.flt = false)
    (ht : t.flt = true) : t.fcmd = w := by
  rcases h with ⟨hflt, _⟩ | ⟨_, _, hfcmd⟩
  · rw [hs, ht] at hflt; cases hflt
  · exact hfcmd

/-- `FCMD` changes by a fault alone. -/
theorem LatchStep.fault_of_fcmd_ne {w : CmdWord} {s t : State} (h : LatchStep w s t) (hne : t.fcmd ≠ s.fcmd) :
    s.flt = false ∧ t.flt = true ∧ t.fcmd = w :=
  h.resolve_left fun hkept => hne hkept.2

/-- Settles O15: by the host's next event; the latch step of its transaction gives every clause. -/
theorem fcmdHoldsFaultingWord : Obligations.FcmdHoldsFaultingWord := by
  refine ⟨rfl, fun s t hinv hstep => ?_⟩
  rcases step_cases hstep with ⟨hin, rfl⟩ | ⟨rest, hin, rfl⟩ | ⟨w, payload, rest, hin, _, hserve⟩
  · exact ⟨hinv.clear, by simp [hin], fun hne => absurd rfl hne, by simp [hin]⟩
  · exact ⟨fun _ => rfl, by simp [hin], fun _ => .inl (by simp [hin]), by simp [hin]⟩
  · obtain ⟨hlatch, hresponse⟩ := serve_latchStep (s := s.begin w payload rest) hserve
    have hlatch : LatchStep w s t := hlatch
    simp only [hin, List.head?_cons, Option.some.injEq, HostEvent.command.injEq]
    refine ⟨hlatch.clear hinv.clear, ?_, fun hne => ?_, fun _ _ _ => hresponse⟩
    · rintro _ _ ⟨rfl, rfl⟩
      exact hlatch.fcmd_of_fault
    · exact .inr ⟨w, payload, ⟨rfl, rfl⟩, hlatch.fault_of_fcmd_ne hne⟩

end Sys2Proof.Machine
end

section
/-! Batch normalization (45_batch_normalization.md R270, R271): `a^(m−2)` is the inverse, so the scaled coordinates of a
triple are those of its normal form, and `bnorm` maps this over its array. -/

namespace Sys2Proof.Machine

/-! ### The inverse in a prime field (41_prime_field.md R113) -/

theorem invMod_of_ne_zero (m : Nat) {a : Nat} (ha : a ≠ 0) : invMod m a = some (powMod m a (m - 2)) := by
  rw [invMod, if_neg ha]

theorem cast_powMod {R : Type} [CommRing R] {m : Nat} (h : (m : R) = 0) (a e : Nat) :
    ((powMod m a e : Nat) : R) = (a : R) ^ e :=
  map_powBy (Nat.cast : Nat → R) (cast_mulMod h) Nat.cast_one a e

/-- A reduced number other than 0 is not 0 in the field. -/
theorem cast_ne_zero_of_lt {m a : Nat} (ha : a ≠ 0) (hlt : a < m) : (a : ZMod m) ≠ 0 := by
  rw [Ne, ZMod.natCast_eq_zero_iff]
  exact Nat.not_dvd_of_pos_of_lt (Nat.pos_of_ne_zero ha) hlt

/-- Fermat's little theorem, as the machine inverts by it. -/
theorem cast_invMod_mul {m a : Nat} (hm : m.Prime) (ha : a ≠ 0) (hlt : a < m) :
    (((invMod m a).getD 0 : Nat) : ZMod m) * a = 1 := by
  have : Fact m.Prime := ⟨hm⟩
  have hexp : m - 2 + 1 = m - 1 := by have := hm.two_le; omega
  rw [invMod_of_ne_zero m ha, Option.getD_some, cast_powMod (ZMod.natCast_self m), ← pow_succ, hexp]
  exact ZMod.pow_card_sub_one_eq_one (cast_ne_zero_of_lt ha hlt)

/-! ### One triple (R271) -/

/-- The scaled coordinates, multiplied by the powers of `Z` they were divided by, are those of the triple. -/
theorem cast_normalizedXY {p : Params} {P : Jacobian} (hq : p.q.Prime) (hz : P.z ≠ 0) (hlt : P.z < p.q) :
    ((normalizedXY p P).1 : ZMod p.q) * (P.z : ZMod p.q) ^ 2 = P.x ∧
    ((normalizedXY p P).2 : ZMod p.q) * (P.z : ZMod p.q) ^ 3 = P.y := by
  have hinv := cast_invMod_mul hq hz hlt
  have hchar : (p.q : ZMod p.q) = 0 := ZMod.natCast_self p.q
  simp only [normalizedXY, cast_mulMod hchar, cast_sqrMod hchar]
  constructor
  · rw [mul_assoc, ← mul_pow, hinv, one_pow, mul_one]
  · rw [← pow_succ', mul_assoc, ← mul_pow, hinv, one_pow, mul_one]

theorem normalizePoint_of_normal (p : Params) {P : Jacobian} (h : P.z = 0 ∨ P.z = 1) : normalizePoint p P = P :=
  if_pos h

theorem normalizePoint_of_not_normal (p : Params) {P : Jacobian} (h0 : P.z ≠ 0) (h1 : P.z ≠ 1) :
    normalizePoint p P = ⟨(normalizedXY p P).1, (normalizedXY p P).2, 1⟩ :=
  if_neg (not_or.mpr ⟨h0, h1⟩)

/-- The machine's normal form of a reduced triple is that of R271. -/
theorem normalizePoint_rule {P : Jacobian} (hP : P.Reduced Config.params.q) :
    NormalRule P (normalizePoint Config.params P) := by
  refine ⟨normalizePoint_reduced Config.one_lt_q hP, normalizePoint_of_normal _, fun h0 h1 => ?_⟩
  obtain ⟨_, _, hz⟩ := hP
  obtain ⟨hx, hy⟩ := cast_normalizedXY Config.q_prime h0 hz
  rw [normalizePoint_of_not_normal _ h0 h1]
  exact ⟨hx, hy, rfl⟩

/-! ### The batch (R270) -/

theorem batchNormalize_rule {ps : List Jacobian} (hps : ∀ P ∈ ps, P.Reduced Config.params.q) :
    List.Forall₂ NormalRule ps (batchNormalize Config.params ps) :=
  List.forall₂_map_right_iff.mpr (List.forall₂_same.mpr fun P hP => normalizePoint_rule (hps P hP))

/-- On a held array of reduced triples every check passes, and `bnorm` writes the normalized array in its place. -/
theorem bnormCommand_next {s : State} {rd : CellIdx} {n : Imm} {ps : List Jacobian} (hs : s.flt = false)
    (hn : ps.length = n.toNat) (hps : ∀ P ∈ ps, P.Reduced Config.params.q) (hh : holds s rd (ps.flatMap jacForm.cells)) :
    bnormCommand Config.params rd n s =
      .next (s.write rd.toNat ((batchNormalize Config.params ps).flatMap jacForm.cells)) := by
  have hchecks := vector_checks jacElem_form hps hh
  have hdest : rd.toNat + ps.length * jacForm.width ≤ 256 := length_flatMap_cells jacElem_form ps ▸ hh.1
  have hpass : violation [vectorSource (jacElem Config.params) rd ps.length]
      [vectorDest (jacElem Config.params) rd ps.length] s.cells = none :=
    violation_eq_none_iff.mpr ⟨List.forall_mem_singleton.mpr hchecks, List.forall_mem_singleton.mpr hdest⟩
  rw [bnormCommand, ← hn, command_run hs hpass, loadVector_held jacElem_form hh,
    funext jacElem_form.cells]

/-- Settles O51: the next state of the command on its held array, and the rule of each triple in it. -/
theorem bnormResults : Obligations.BnormResults :=
  fun _ _ _ ps hs hn hps hh => ⟨batchNormalize Config.params ps, batchNormalize_rule hps, bnormCommand_next hs hn hps hh⟩

end Sys2Proof.Machine
end

section
/-! The fault latch (60_exceptions.md R333 to R338): which fault a command takes, that it takes none when its checks
pass, and that nothing but reset touches the block once a fault is latched. -/

namespace Sys2Proof.Machine

/-! ### The first violation of a command (R333, R335) -/

section
variable {i : Instr} {st : Store} {c d : FaultCode}

/-- No cause of lower code is violated. -/
theorem firstViolation_not_lower (h : firstViolation i st c) (hlt : faultNumber d < faultNumber c) :
    ¬ violates i st d :=
  fun hd => Nat.not_le_of_lt hlt (h.2 d hd)

/-- A command that violates some check has a first violation. -/
theorem exists_firstViolation (h : ¬ passesChecks i st) : ∃ c, firstViolation i st c := by
  obtain ⟨d, hd⟩ := not_forall_not.mp h
  obtain ⟨c, hc, hmin⟩ := (measure fun c => (faultNumber c).toNat).wf.has_min {c | violates i st c} ⟨d, hd⟩
  exact ⟨c, hc, fun e he => Nat.le_of_not_lt (hmin e he)⟩

/-- `ILLEGAL` goes before every other cause. -/
theorem firstViolation_eq_illegal (hi : i.wellFormed = false) (h : firstViolation i st c) : c = .illegal := by
  have hle : (faultNumber c).toNat ≤ 1 := h.2 .illegal hi
  cases c with
  | illegal => rfl
  | range | unwritten | badFlag | unreduced => simp [faultNumber] at hle

/-- The range check of a command sees the operands that the rules list. -/
theorem range_check_iff :
    ((∃ o ∈ instrSources i, o.passesEnd) ∨ ∃ d ∈ destOf i, 256 < d.start + d.width) ↔ violates i st .range := by
  simp [destOf, violates, Source.passesEnd]

/-- The checks of a command run through the causes in the order of their codes. -/
theorem violation_eq_violates :
    violation (instrSources i) (destOf i) st =
      open Classical in
      if violates i st .range then some .range
      else if violates i st .unwritten then some .unwritten
      else if violates i st .badFlag then some .badFlag
      else if violates i st .unreduced then some .unreduced
      else none := by
  classical
  rw [violation_eq]
  exact ite_congr (propext range_check_iff) (fun _ => rfl) fun _ => ite_congr rfl (fun _ => rfl) fun _ =>
    ite_congr rfl (fun _ => rfl) fun _ => ite_congr rfl (fun _ => rfl) fun _ => rfl

/-- The checks of a well-formed command report its first violation. -/
theorem violation_of_firstViolation (hi : i.wellFormed = true) (h : firstViolation i st c) :
    violation (instrSources i) (destOf i) st = some c := by
  have hlow (d : FaultCode) (hlt : faultNumber d < faultNumber c) : ¬ violates i st d := firstViolation_not_lower h hlt
  obtain ⟨hc, _⟩ := h
  rw [violation_eq_violates]
  cases c with
  | illegal => exact absurd hi (by simp [show i.wellFormed = false from hc])
  | range => rw [if_pos hc]
  | unwritten => rw [if_neg (hlow .range (by decide)), if_pos hc]
  | badFlag => rw [if_neg (hlow .range (by decide)), if_neg (hlow .unwritten (by decide)), if_pos hc]
  | unreduced =>
    rw [if_neg (hlow .range (by decide)), if_neg (hlow .unwritten (by decide)), if_neg (hlow .badFlag (by decide)),
      if_pos hc]

/-- A command that passes every check is not stopped by one. -/
theorem violation_of_passesChecks (h : passesChecks i st) : violation (instrSources i) (destOf i) st = none := by
  rw [violation_eq_violates, if_neg (h .range), if_neg (h .unwritten), if_neg (h .badFlag), if_neg (h .unreduced)]

end

/-! ### What a command does after its checks leaves the latch alone -/

/-- The effect ends, where it has a next state, with the fault latch as it was. -/
def KeepsLatch (e : State → Result) : Prop := ∀ s t, e s = .next t → t.flt = s.flt

theorem keepsLatch_next {f : State → State} (hf : ∀ s, (f s).flt = s.flt) : KeepsLatch fun s => .next (f s) := by
  rintro s _ ⟨⟩
  exact hf s

theorem keepsLatch_setT (b : State → Bool) : KeepsLatch fun s => .next (s.setT (b s)) :=
  keepsLatch_next fun s => setT_flt s (b s)

theorem keepsLatch_setL (c : State → Legendre) : KeepsLatch fun s => .next (s.setL (c s)) :=
  keepsLatch_next fun s => setL_flt s (c s)

theorem keepsLatch_write (i : Nat) (vs : State → List Nat) : KeepsLatch fun s => .next (s.write i (vs s)) :=
  keepsLatch_next fun s => write_flt s i (vs s)

section
variable {α : Type} (td : ElemTy α) (rd : CellIdx)

@[simp] theorem storeElem_flt (s : State) (a : α) : (storeElem td s rd a).flt = s.flt := rfl

@[simp] theorem storeOption_flt (s : State) (o : Option α) : (storeOption td s rd o).flt = s.flt := by
  cases o <;> simp [storeOption]

@[simp] theorem storeCyclotomic_flt (p : Params) (s : State) (a v : Fq12) :
    (storeCyclotomic p s rd a v).flt = s.flt := by
  unfold storeCyclotomic
  split <;> rfl

theorem keepsLatch_storeElem (v : State → α) : KeepsLatch fun s => .next (storeElem td s rd (v s)) :=
  keepsLatch_next fun s => storeElem_flt td rd s (v s)

theorem keepsLatch_storeOption (o : State → Option α) : KeepsLatch fun s => .next (storeOption td s rd (o s)) :=
  keepsLatch_next fun s => storeOption_flt td rd s (o s)

theorem keepsLatch_storeRoot (mk : State → Nat → α) (root : State → SqrtResult) :
    KeepsLatch fun s => storeRoot td s rd (mk s) (root s) := by
  intro s t h
  simp only at h
  cases hr : root s with
  | root | nonResidue =>
    rw [hr] at h
    cases h
    exact storeOption_flt td rd s _
  | hang => rw [hr] at h; cases h

theorem keepsLatch_storeCyclotomic (p : Params) (a v : State → Fq12) :
    KeepsLatch fun s => .next (storeCyclotomic p s rd (a s) (v s)) :=
  keepsLatch_next fun s => storeCyclotomic_flt rd p s (a s) (v s)

theorem keepsLatch_ld (limbs : Nat) : KeepsLatch fun s =>
    if s.payload.length = limbs then .next (storeElem rawElem s rd (payloadValue s.payload))
    else .refused .badPayload := by
  intro s t h
  simp only at h
  split at h
  · cases h
    exact storeElem_flt rawElem rd s _
  · cases h

end

/-- The meaning of a well-formed instruction is `command` over the operands the rules list and an effect that does not
touch the latch: a fault comes from a check alone. -/
theorem exec_command_keepsLatch (i : Instr) (hi : i.wellFormed = true) :
    ∃ e : State → Result, (∀ s, exec i s = command (instrSources i) (destOf i) s (e s)) ∧ KeepsLatch e := by
  cases i with
  | pdec rd ra sign =>
    have hsign : sign.toNat ≤ 1 := by simpa [Instr.wellFormed, signSelectorOk] using hi
    exact ⟨_, fun s => if_pos hsign, keepsLatch_storeRoot _ rd _ _⟩
  | sqrtFq rd | sqrtFr rd => exact ⟨_, fun _ => rfl, keepsLatch_storeRoot _ rd _ _⟩
  | nop | st => exact ⟨_, fun _ => rfl, keepsLatch_next fun _ => rfl⟩
  | ld rd => exact ⟨_, fun _ => rfl, keepsLatch_ld rd _⟩
  | mov rd | bnorm rd => exact ⟨_, fun _ => rfl, keepsLatch_write rd.toNat _⟩
  | cycsqrFq12 rd | cycexpFq12 rd => exact ⟨_, fun _ => rfl, keepsLatch_storeCyclotomic rd _ _ _⟩
  | invFq rd | invFr rd | invFq2 rd | invFq6 rd | invFq12 rd
  | divFq rd | divFr rd | divFq2 rd | divFq6 rd | divFq12 rd =>
    exact ⟨_, fun _ => rfl, keepsLatch_storeOption _ rd _⟩
  | iszFq | iszFr | iszFq2 | iszFq6 | iszFq12 | isoneFq | isoneFr | isoneFq2 | isoneFq6 | isoneFq12
  | eqFq | eqFr | eqFq2 | eqFq6 | eqFq12 | pisz | aisz | peq =>
    exact ⟨_, fun _ => rfl, keepsLatch_setT _⟩
  | legFq | legFr => exact ⟨_, fun _ => rfl, keepsLatch_setL _⟩
  | _ => exact ⟨_, fun _ => rfl, keepsLatch_storeElem _ _ _⟩

/-! ### The fault of a command (R334 to R336) -/

section
variable {i : Instr} {s t : State} {c : FaultCode}

/-- With no fault latched a command takes its first violation as its fault. -/
theorem exec_of_firstViolation (hs : s.flt = false) (h : firstViolation i s.cells c) :
    exec i s = .next (takeFault c s) := by
  cases hi : i.wellFormed with
  | false => rw [firstViolation_eq_illegal hi h, exec_illegal hi hs]
  | true =>
    obtain ⟨e, he⟩ := exec_command i hi
    rw [he, command_fault hs (violation_of_firstViolation hi h)]

/-- A command that passes every check latches no fault. -/
theorem exec_flt_of_passesChecks (hs : s.flt = false) (hp : passesChecks i s.cells) (h : exec i s = .next t) :
    t.flt = false := by
  have hi : i.wellFormed = true := Bool.eq_true_of_not_eq_false (hp .illegal)
  obtain ⟨e, he, hlatch⟩ := exec_command_keepsLatch i hi
  rw [he, command_run hs (violation_of_passesChecks hp)] at h
  rw [hlatch s t h, hs]

/-- A command that latches a fault took its first violation. -/
theorem exec_fault_cause (hs : s.flt = false) (h : exec i s = .next t) (ht : t.flt = true) :
    ∃ c, firstViolation i s.cells c ∧ t = takeFault c s := by
  by_cases hp : passesChecks i s.cells
  · exact absurd (exec_flt_of_passesChecks hs hp h) (by simp [ht])
  · obtain ⟨c, hc⟩ := exists_firstViolation hp
    rw [exec_of_firstViolation hs hc] at h
    cases h
    exact ⟨c, hc, rfl⟩

end

/-- Settles O17: the checks report the first violation, and after passed checks no effect touches the latch. -/
theorem faultPriority : Obligations.FaultPriority :=
  ⟨fun _ _ _ hs hc => exec_of_firstViolation hs hc, fun _ _ _ hs h ht => exec_fault_cause hs h ht⟩

/-! ### Transactions while `FLT = 1` (R337) -/

section
variable {s t : State}

/-- A disciplined transaction is served from the state in which its word and payload have arrived. -/
theorem step_command {w : CmdWord} {payload : List Limb} {rest : List HostEvent}
    (hin : s.inbox = .command w payload :: rest) (hp : payloadLegal Config.params.limbs w payload = true) :
    step s = serve w (s.begin w payload rest) := by
  simp [step, transact, hin, hp]

/-- While `FLT = 1` every word, legal or not, is answered at once and changes nothing. -/
theorem serve_latched (w : CmdWord) (hs : s.flt = true) : serve w s = .next s.respond := if_pos hs

end

/-- Settles O13: the refusal, after the transaction has begun. -/
theorem refusedWhileFaulted : Obligations.RefusedWhileFaulted := by
  intro s w payload rest hin hp hs
  rw [step_command hin hp, serve_latched w (s := s.begin w payload rest) hs]
  rfl

/-! ### No return but reset (R338) -/

section
variable {s t : State}

/-- `FLT` is a bit of `STATUS`. -/
theorem flt_of_status_eq (h : t.status = s.status) : t.flt = s.flt := by simp [State.flt, h]

/-- While `FLT = 1` a step is a reset, or it keeps every cell, `STATUS` and `FCMD` and goes on to the host's
next event. -/
theorem step_latched (hs : s.flt = true) (h : step s = .next t) :
    (∃ rest, s.inbox = .reset :: rest ∧ t = resetBlock { s with inbox := rest }) ∨
    (t.inbox = s.inbox.tail ∧ t.cells = s.cells ∧ t.status = s.status ∧ t.fcmd = s.fcmd) := by
  rcases step_cases h with ⟨hin, rfl⟩ | hreset | ⟨w, payload, rest, hin, _, hserve⟩
  · exact .inr ⟨by simp [hin], rfl, rfl, rfl⟩
  · exact .inl hreset
  · rw [serve_latched w (s := s.begin w payload rest) hs] at hserve
    cases hserve
    exact .inr ⟨by simp [hin], rfl, rfl, rfl⟩

/-- A run of one step more is a step and a run. -/
theorem run_succ_next {M : Host.Core} {s t : M.State} {k : Nat} (h : M.run (k + 1) s = .next t) :
    ∃ u, M.step s = .next u ∧ M.run k u = .next t := by
  rw [Host.Core.run] at h
  split at h
  next u hstep => exact ⟨u, hstep, h⟩
  next => cases h
  next => cases h

/-- While `FLT = 1` no run without a reset changes a cell, `STATUS` or `FCMD`. -/
theorem run_latched (k : Nat) (hs : s.flt = true) (hin : ∀ e ∈ s.inbox.take k, e ≠ .reset)
    (h : Host.Core.run Sys2Proof.core k s = .next t) :
    t.cells = s.cells ∧ t.status = s.status ∧ t.fcmd = s.fcmd := by
  induction k generalizing s with
  | zero => cases h; exact ⟨rfl, rfl, rfl⟩
  | succ k ih =>
    obtain ⟨u, hstep, hrun⟩ := run_succ_next h
    rcases step_latched hs hstep with ⟨rest, hreset, _⟩ | ⟨htail, hcells, hstatus, hfcmd⟩
    · exact absurd rfl (hin .reset (by simp [hreset]))
    · have hu : u.flt = true := (flt_of_status_eq hstatus).trans hs
      have huin : ∀ e ∈ u.inbox.take k, e ≠ .reset := fun e he =>
        hin e (List.mem_of_mem_tail (by rwa [List.tail_take_eq_take_tail, Nat.add_sub_cancel, ← htail]))
      obtain ⟨hc, hst, hf⟩ := ih hu huin hrun
      exact ⟨hc.trans hcells, hst.trans hstatus, hf.trans hfcmd⟩

/-- A step that clears a latched fault is a reset, and it unwrites every cell. -/
theorem step_clears_latch (hs : s.flt = true) (h : step s = .next t) (ht : t.flt = false) :
    s.inbox.head? = some .reset ∧ ∀ c, readCell t.cells c = none := by
  rcases step_latched hs h with ⟨rest, hreset, rfl⟩ | ⟨_, _, hstatus, _⟩
  · exact ⟨by simp [hreset], fun c => readCell_nil c⟩
  · rw [flt_of_status_eq hstatus, hs] at ht
    cases ht

end

/-- Settles O14, by induction on the number of events and by the cases of a step under a latched fault. -/
theorem faultLatchHolds : Obligations.FaultLatchHolds :=
  ⟨fun k _ _ hs hin h => run_latched k hs hin h, fun _ _ hs h ht => step_clears_latch hs h ht⟩

end Sys2Proof.Machine
end

section
/-! The command word (30_encoding.md): decoding inverts encoding both ways, and the legal words are those of the masks of
spec/opcode_table.json. Both follow row by row from what a row's shape reads. -/

namespace Sys2Proof

/-! ### Encoding, then decoding (R50 to R54) -/

/-- The row of a well-formed command reads its operands back. -/
theorem decodeFields_instrFields (i : Instr) (hi : i.wellFormed = true) : decodeFields (instrFields i) = .ok i := by
  cases i with
  | pdec rd ra sign => exact Laws.ReadBack.pdec rd ra sign hi
  | _ => rfl

/-- Settles O1: the fields of a packed word, read back by the row of the command. -/
theorem decodeEncode : Obligations.DecodeEncode := fun i hi => by
  rw [encode, decode_pack, decodeFields_instrFields i hi]

/-! ### Decoding, then encoding (R55) -/

/-- The command is well formed and its fields are `f`. -/
structure Encodes (i : Instr) (f : Fields) : Prop where
  wellFormed : i.wellFormed = true
  fields : instrFields i = f

/-- Every command that a shape makes of operands is encoded as the row's pair (`op`, `ty`) with these operands. -/
def Shape.Faithful (op : BitVec 8) (ty : BitVec 4) : Shape → Prop
  | .n mk => Encodes mk (commandFields op ty 0 0 0 0)
  | .d mk => ∀ rd, Encodes (mk rd) (commandFields op ty rd 0 0 0)
  | .a mk => ∀ ra, Encodes (mk ra) (commandFields op ty 0 ra 0 0)
  | .ab mk => ∀ ra rb, Encodes (mk ra rb) (commandFields op ty 0 ra rb 0)
  | .da mk => ∀ rd ra, Encodes (mk rd ra) (commandFields op ty rd ra 0 0)
  | .dab mk => ∀ rd ra rb, Encodes (mk rd ra rb) (commandFields op ty rd ra rb 0)
  | .di mk => ∀ rd imm, Encodes (mk rd imm) (commandFields op ty rd 0 0 imm)
  | .dai mk => ∀ rd ra imm, Encodes (mk rd ra imm) (commandFields op ty rd ra 0 imm)
  | .dabi mk => ∀ rd ra rb imm, Encodes (mk rd ra rb imm) (commandFields op ty rd ra rb imm)
  | .das mk => ∀ (rd ra : CellIdx) (sign : Imm), sign.toNat ≤ 1 →
      Encodes (mk rd ra sign) (commandFields op ty rd ra 0 sign)

/-- The encoder and the opcode map list the same pairs (R54). -/
theorem opcodeTable_faithful : ∀ row ∈ opcodeTable, row.shape.Faithful row.op row.ty := by
  simp only [opcodeTable, systemRows, constantRows, predicateRows, adderRows, multiplierRows, inverseRows, towerRows,
    curveRows, List.forall_mem_append, List.forall_mem_cons, List.not_mem_nil, IsEmpty.forall_iff,
    implies_true, and_true, Shape.Faithful]
  repeat' apply And.intro
  all_goals intros; first | exact ⟨rfl, rfl⟩ | exact ⟨decide_eq_true ‹_›, rfl⟩

/-- What a faithful shape reads from fields whose reserved bits are 0 is encoded as these fields. -/
theorem encodes_of_read {f : Fields} {sh : Shape} {i : Instr} (hsh : sh.Faithful f.op f.ty) (h0 : f.z0 = 0)
    (h1 : f.z1 = 0) (h : sh.read f = .ok i) : Encodes i f := by
  obtain ⟨op, ty, z0, rd, ra, rb, z1, imm⟩ := f
  subst h0 h1
  cases sh with
  | n mk =>
    obtain ⟨⟨rfl, rfl, rfl, rfl⟩, ⟨⟩⟩ := (ite_eq_iff.mp h).resolve_right (by simp)
    exact hsh
  | d mk =>
    obtain ⟨⟨rfl, rfl, rfl⟩, ⟨⟩⟩ := (ite_eq_iff.mp h).resolve_right (by simp)
    exact hsh rd
  | a mk =>
    obtain ⟨⟨rfl, rfl, rfl⟩, ⟨⟩⟩ := (ite_eq_iff.mp h).resolve_right (by simp)
    exact hsh ra
  | ab mk =>
    obtain ⟨⟨rfl, rfl⟩, ⟨⟩⟩ := (ite_eq_iff.mp h).resolve_right (by simp)
    exact hsh ra rb
  | da mk =>
    obtain ⟨⟨rfl, rfl⟩, ⟨⟩⟩ := (ite_eq_iff.mp h).resolve_right (by simp)
    exact hsh rd ra
  | dab mk =>
    obtain ⟨rfl, ⟨⟩⟩ := (ite_eq_iff.mp h).resolve_right (by simp)
    exact hsh rd ra rb
  | di mk =>
    obtain ⟨⟨rfl, rfl⟩, ⟨⟩⟩ := (ite_eq_iff.mp h).resolve_right (by simp)
    exact hsh rd imm
  | dai mk =>
    obtain ⟨rfl, ⟨⟩⟩ := (ite_eq_iff.mp h).resolve_right (by simp)
    exact hsh rd ra imm
  | dabi mk =>
    cases h
    exact hsh rd ra rb imm
  | das mk =>
    obtain ⟨rfl, h⟩ := (ite_eq_iff.mp h).resolve_right (by simp)
    obtain ⟨hsign, ⟨⟩⟩ := (ite_eq_iff.mp h).resolve_right (by simp)
    exact hsh rd ra imm hsign

/-- Settles O2: the row of the decoded word is faithful, and a word is known by its fields. -/
theorem encodeDecode : Obligations.EncodeDecode := fun w i h => by
  obtain ⟨row, hrow, hop, hty, h0, h1, hread⟩ := decodeFields_ok h
  have hsh := opcodeTable_faithful row hrow
  rw [hop, hty] at hsh
  obtain ⟨hwf, hfields⟩ := encodes_of_read hsh h0 h1 hread
  exact ⟨hwf, by rw [encode, hfields, pack_unpack]⟩

/-! ### The masks of the opcode table (R54, R55) -/

/-- The bits that a row fixes: `op`, `ty`, the reserved fields and every field its shape does not use. -/
def Shape.maskFields : Shape → Fields
  | .n _ => ⟨0xFF, 0xF, 0xF, 0xFF, 0xFF, 0xFF, 0xFF, 0xFFFF⟩
  | .d _ => ⟨0xFF, 0xF, 0xF, 0, 0xFF, 0xFF, 0xFF, 0xFFFF⟩
  | .a _ => ⟨0xFF, 0xF, 0xF, 0xFF, 0, 0xFF, 0xFF, 0xFFFF⟩
  | .ab _ => ⟨0xFF, 0xF, 0xF, 0xFF, 0, 0, 0xFF, 0xFFFF⟩
  | .da _ => ⟨0xFF, 0xF, 0xF, 0, 0, 0xFF, 0xFF, 0xFFFF⟩
  | .dab _ => ⟨0xFF, 0xF, 0xF, 0, 0, 0, 0xFF, 0xFFFF⟩
  | .di _ => ⟨0xFF, 0xF, 0xF, 0, 0xFF, 0xFF, 0xFF, 0⟩
  | .dai _ => ⟨0xFF, 0xF, 0xF, 0, 0, 0xFF, 0xFF, 0⟩
  | .dabi _ => ⟨0xFF, 0xF, 0xF, 0, 0, 0, 0xFF, 0⟩
  | .das _ => ⟨0xFF, 0xF, 0xF, 0, 0, 0xFF, 0xFF, 0xFFFE⟩

/-- The mask and the pattern of a row. -/
def Row.mask (row : Row) : CmdWord × CmdWord :=
  (packWord row.shape.maskFields, packWord (commandFields row.op row.ty 0 0 0 0))

/-- The masks of the file are those of the decoder's rows, in another order. -/
theorem mem_maskRows_iff (m : CmdWord × CmdWord) : m ∈ maskRows ↔ m ∈ opcodeTable.map Row.mask := by
  have h1 : maskRows ⊆ opcodeTable.map Row.mask := by decide +kernel
  have h2 : opcodeTable.map Row.mask ⊆ maskRows := by decide +kernel
  exact ⟨fun h => h1 h, fun h => h2 h⟩

/-- The fields of two words joined bit by bit. -/
theorem unpack_and (v w : CmdWord) : unpackWord (v &&& w) =
    ⟨(unpackWord v).op &&& (unpackWord w).op, (unpackWord v).ty &&& (unpackWord w).ty,
      (unpackWord v).z0 &&& (unpackWord w).z0, (unpackWord v).rd &&& (unpackWord w).rd,
      (unpackWord v).ra &&& (unpackWord w).ra, (unpackWord v).rb &&& (unpackWord w).rb,
      (unpackWord v).z1 &&& (unpackWord w).z1, (unpackWord v).imm &&& (unpackWord w).imm⟩ := by
  simp only [unpackWord, BitVec.extractLsb'_and]

/-- A word matches a mask when its fields do. -/
theorem and_eq_iff_unpack (w m p : CmdWord) : w &&& m = p ↔ unpackWord (w &&& m) = unpackWord p :=
  ⟨fun h => h ▸ rfl, unpack_injective⟩

/-- All bits but the last are 0 exactly in 0 and 1. -/
theorem and_fffe_eq_zero_iff (x : BitVec 16) : x &&& 0xFFFE#16 = 0#16 ↔ x.toNat ≤ 1 := by
  have hshift : x &&& 0xFFFE#16 = x >>> 1 <<< 1 := by
    apply BitVec.eq_of_getLsbD_eq
    intro i hi
    interval_cases i <;> simp
  have hdiv : (x >>> 1 <<< 1).toNat = 2 * (x.toNat / 2) := by
    rw [BitVec.toNat_shiftLeft, BitVec.toNat_ushiftRight, Nat.shiftRight_eq_div_pow, Nat.shiftLeft_eq]
    omega
  rw [hshift, ← BitVec.toNat_inj, hdiv, BitVec.toNat_zero]
  omega

theorem and_ones_four (x : BitVec 4) : x &&& 0xF#4 = x := BitVec.and_allOnes
theorem and_ones_eight (x : BitVec 8) : x &&& 0xFF#8 = x := BitVec.and_allOnes
theorem and_ones_sixteen (x : BitVec 16) : x &&& 0xFFFF#16 = x := BitVec.and_allOnes

/-- A condition decides whether a row reads a command. -/
theorem exists_ite_eq_ok_iff {P : Prop} [Decidable P] {i : Instr} {e : DecodeError} :
    (∃ j, (if P then Except.ok i else .error e) = .ok j) ↔ P := by
  by_cases h : P <;> simp [h]

/-- Fields match the mask and pattern of a row exactly when they carry the row's pair, the reserved fields are 0 and the
row's shape reads a command from them. -/
theorem matches_mask_iff (op : BitVec 8) (ty : BitVec 4) (sh : Shape) (f : Fields) :
    Fields.mk (f.op &&& sh.maskFields.op) (f.ty &&& sh.maskFields.ty) (f.z0 &&& sh.maskFields.z0)
      (f.rd &&& sh.maskFields.rd) (f.ra &&& sh.maskFields.ra) (f.rb &&& sh.maskFields.rb)
      (f.z1 &&& sh.maskFields.z1) (f.imm &&& sh.maskFields.imm) = commandFields op ty 0 0 0 0 ↔
    f.op = op ∧ f.ty = ty ∧ f.z0 = 0 ∧ f.z1 = 0 ∧ ∃ i, sh.read f = .ok i := by
  obtain ⟨fop, fty, z0, rd, ra, rb, z1, imm⟩ := f
  cases sh with
  | dabi | dab =>
    simp [Shape.maskFields, Shape.read, commandFields, and_ones_four, and_ones_eight, and_ones_sixteen,
      exists_ite_eq_ok_iff]
  | das =>
    have hnested : ∀ (P Q : Prop) [Decidable P] [Decidable Q] (i : Instr) (e e' : DecodeError),
        (∃ j, (if P then if Q then Except.ok i else .error e else .error e') = .ok j) ↔ P ∧ Q := by
      intro P Q _ _ i e e'
      by_cases hP : P <;> simp [hP, exists_ite_eq_ok_iff]
    simp [Shape.maskFields, Shape.read, commandFields, and_ones_four, and_ones_eight, and_fffe_eq_zero_iff, hnested]
    tauto
  | _ =>
    simp [Shape.maskFields, Shape.read, commandFields, and_ones_four, and_ones_eight, and_ones_sixteen,
      exists_ite_eq_ok_iff]
    tauto

/-- A pair (`op`, `ty`) has one row. -/
theorem findRow_of_mem : ∀ row ∈ opcodeTable, findRow row.op row.ty = some row := by
  simp only [opcodeTable, systemRows, constantRows, predicateRows, adderRows, multiplierRows, inverseRows, towerRows,
    curveRows, List.forall_mem_append, List.forall_mem_cons, List.not_mem_nil, IsEmpty.forall_iff, implies_true, and_true]
  repeat' apply And.intro
  all_goals rfl

/-- A word is legal when some row of the table carries its pair and reads a command from it. -/
theorem decode_ok_iff (w : CmdWord) : (∃ i, decode w = .ok i) ↔ ∃ row ∈ opcodeTable, (unpackWord w).op = row.op ∧
    (unpackWord w).ty = row.ty ∧ (unpackWord w).z0 = 0 ∧ (unpackWord w).z1 = 0 ∧
      ∃ i, row.shape.read (unpackWord w) = .ok i := by
  constructor
  · rintro ⟨i, h⟩
    obtain ⟨row, hrow, hop, hty, h0, h1, hread⟩ := decodeFields_ok h
    exact ⟨row, hrow, hop.symm, hty.symm, h0, h1, i, hread⟩
  · rintro ⟨row, hrow, hop, hty, h0, h1, i, hread⟩
    exact ⟨i, by simp [decode, decodeFields, hop, hty, findRow_of_mem row hrow, h0, h1, hread]⟩

/-- Settles O3: the masks of the file are those of the decoder's rows, and a word matches one exactly when the row reads
a command from it. -/
theorem legalIffMaskMatch : Obligations.LegalIffMaskMatch := fun w => by
  simp only [decode_ok_iff, mem_maskRows_iff, List.mem_map, exists_exists_and_eq_and, and_eq_iff_unpack, unpack_and,
    Row.mask, unpack_pack, matches_mask_iff]

/-- Settles O4: the kernel decodes each word. -/
theorem decodesWorkedWords : Obligations.DecodesWorkedWords := by
  refine ⟨rfl, rfl, rfl, rfl, rfl, rfl, rfl, rfl, rfl, rfl, rfl, rfl, rfl⟩

end Sys2Proof
end

section
/-! What every command leaves as it was and what it leaves in its destination (10_state.md R12, R16, R22), all of it read
off the outcomes of `exec_outcome`. -/

namespace Sys2Proof.Machine

/-! ### The cases of a command -/

section
variable {i : Instr} {s t : State}

/-- A command that ends with no fault latched was neither refused nor faulted. -/
theorem effect_of_exec (hs : s.flt = false) (h : exec i s = .next t) (ht : t.flt = false) : Effect i s t := by
  rcases exec_outcome h with ⟨hf, _⟩ | ⟨_, c, rfl⟩ | ⟨_, he⟩
  · rw [hs] at hf; cases hf
  · rw [takeFault_flt] at ht; cases ht
  · exact he

/-- A command that ends with no fault latched has passed its checks. -/
theorem passesChecks_of_exec (hs : s.flt = false) (h : exec i s = .next t) (ht : t.flt = false) :
    passesChecks i s.cells := by
  by_contra hp
  obtain ⟨c, hc⟩ := exists_firstViolation hp
  rw [exec_of_firstViolation hs hc] at h
  cases h
  rw [takeFault_flt] at ht
  cases ht

/-- The Legendre commands write no cell. -/
theorem instrResult_of_writesL (hl : writesL i = true) : instrResult i = none := by
  cases i with
  | legFq | legFr => rfl
  | _ => cases hl

/-- The command that sends a payload writes no cell. -/
theorem instrResult_of_sendsPayload (ho : sendsPayload i = true) : instrResult i = none := by
  cases i with
  | st => rfl
  | _ => cases ho

end

/-! ### Frames (R16, R22) -/

section
variable {i : Instr} {s t : State}

/-- A run of writes as long as the operand changes no cell outside it. -/
theorem readCell_writeCells_of_not_covers {d : Source} {vs : List Nat} (hv : d.AdmitsAll vs) {c : Nat}
    (hc : ¬ d.covers c) (st : Store) : readCell (writeCells st d.start vs) c = readCell st c :=
  readCell_writeCells_outside st vs (by rw [hv.1]; exact hc)

/-- The effect of a command changes no cell outside its destination. -/
theorem Effect.cells_frame (h : Effect i s t) {c : Nat} (hc : ¬ writesCell i c) :
    readCell t.cells c = readCell s.cells c := by
  have hout : ∀ d, instrResult i = some d → ¬ d.covers c := fun d hd hcov => hc ⟨d, hd, hcov⟩
  cases h with
  | nothing | test | legendre | send => rfl
  | result d vs _ hd _ hv | value d vs hd _ hv => exact readCell_writeCells_of_not_covers hv (hout d hd) _
  | absent d hd => exact readCell_eraseCells_outside s.cells (hout d hd)

/-- Settles O19: an outcome is no change of the store, or the effect. -/
theorem cellFrame : Obligations.CellFrame := fun i s t h c hc => by
  rcases exec_outcome h with ⟨_, rfl⟩ | ⟨_, c, rfl⟩ | ⟨_, he⟩
  · rfl
  · rfl
  · exact he.cells_frame hc

/-- The flags after the effect of a command, with no fault latched by it. -/
theorem Effect.flags_frame (h : Effect i s t) :
    (writesT i = false → t.flagT = s.flagT) ∧ (writesN i = false → t.flagN = s.flagN) ∧
    (writesL i = false → t.flagL = s.flagL) ∧ t.status &&& 0xF0E0 = s.status &&& 0xF0E0 ∧ t.fcode = s.fcode := by
  cases h with
  | nothing | result | send => exact ⟨fun _ => rfl, fun _ => rfl, fun _ => rfl, rfl, rfl⟩
  | value d vs hd hn | absent d hd hn =>
    exact ⟨fun _ => by simp, by simp [hn], fun _ => by simp, setN_reserved _ _, by simp⟩
  | test b hd ht => exact ⟨by simp [ht], fun _ => by simp, fun _ => by simp, setT_reserved _ _, by simp⟩
  | legendre c hl => exact ⟨fun _ => by simp, fun _ => by simp, by simp [hl], setL_reserved _ _, by simp⟩

/-- Settles O20: each outcome writes `STATUS` through one setter, and a setter keeps the other fields. -/
theorem flagFrame : Obligations.FlagFrame := fun i s t h => by
  rcases exec_outcome h with ⟨_, rfl⟩ | ⟨hs, c, rfl⟩ | ⟨_, he⟩
  · simp
  · exact ⟨fun _ => takeFault_flagT s c, fun _ => takeFault_flagN s c, fun _ => takeFault_flagL s c,
      takeFault_reserved c s, by simp [hs], by simp⟩
  · obtain ⟨hT, hN, hL, hreserved, hcode⟩ := he.flags_frame
    obtain ⟨hflt, hfcmd⟩ := he.flt_fcmd
    exact ⟨hT, hN, hL, hreserved, fun _ => ⟨hcode, hfcmd⟩, fun hne => absurd hflt hne⟩

/-- The port after the effect of a command. -/
theorem Effect.port_frame (h : Effect i s t) :
    t.inbox = s.inbox ∧ t.word = s.word ∧ t.payload = s.payload ∧ t.response = s.response ∧
    (sendsPayload i = false → t.portOut = s.portOut) ∧ (drawsFree i = false → t.drawn = s.drawn) := by
  cases h with
  | nothing | value | absent | test | legendre => exact ⟨rfl, rfl, rfl, rfl, fun _ => rfl, fun _ => rfl⟩
  | result d vs drawn hd hn hv hw => exact ⟨rfl, rfl, rfl, rfl, fun _ => rfl, hw⟩
  | send out ho => exact ⟨rfl, rfl, rfl, rfl, by simp [ho], fun _ => rfl⟩

/-- Settles O21: no outcome but the effect touches the port. -/
theorem portFrame : Obligations.PortFrame := fun i s t h => by
  rcases exec_outcome h with ⟨_, rfl⟩ | ⟨_, c, rfl⟩ | ⟨_, he⟩
  · exact ⟨rfl, rfl, rfl, rfl, fun _ => rfl, fun _ => rfl⟩
  · exact ⟨rfl, rfl, rfl, rfl, fun _ => rfl, fun _ => rfl⟩
  · exact he.port_frame

end

/-! ### Results (R12, 60_exceptions.md R331) -/

section
variable {i : Instr} {s t : State} {d : Source}

/-- A run of admitted integers that was written is read back from the operand. -/
theorem Source.AdmitsAll.readBack {vs : List Nat} (hv : d.AdmitsAll vs) (st : Store) {j : Nat} (hj : j < sourceWidth d) :
    ∃ v, readCell (writeCells st d.start vs) (d.start + j) = some v ∧ ∀ k, d.kindAt j = some k → k.Admits v := by
  obtain ⟨hlen, hadmits⟩ := hv
  have hget : vs[j]? = some (vs[j]'(hlen ▸ hj)) := List.getElem?_eq_getElem _
  exact ⟨_, readCell_writeCells_inside st d.start vs hget, fun k hk => hadmits j k _ hk hget⟩

/-- The effect of a command with a destination, by the flag `N`: a value was written, or the destination was unwritten. -/
theorem Effect.destination (h : Effect i s t) (hd : instrResult i = some d) :
    (∃ vs, d.AdmitsAll vs ∧ t.cells = writeCells s.cells d.start vs ∧ (writesN i = true → t.flagN = false)) ∨
    (writesN i = true ∧ t.flagN = true ∧ t.cells = eraseCells s.cells d.start (sourceWidth d)) := by
  cases h with
  | nothing hi => subst hi; cases hd
  | result d' vs _ hd' hn hv => obtain rfl := Option.some.inj (hd.symm.trans hd'); exact .inl ⟨vs, hv, rfl, by simp [hn]⟩
  | value d' vs hd' _ hv => obtain rfl := Option.some.inj (hd.symm.trans hd'); exact .inl ⟨vs, hv, rfl, by simp⟩
  | absent d' hd' hn => obtain rfl := Option.some.inj (hd.symm.trans hd'); exact .inr ⟨hn, by simp, rfl⟩
  | test b hd' => rw [hd] at hd'; cases hd'
  | legendre c hl => rw [instrResult_of_writesL hl] at hd; cases hd
  | send out ho => rw [instrResult_of_sendsPayload ho] at hd; cases hd

/-- Settles O23: a command that ends with a value has written admitted integers over its destination. -/
theorem resultsReadBack : Obligations.ResultsReadBack := fun i s t d h hs ht hd hN j hj => by
  rcases (effect_of_exec hs h ht).destination hd with ⟨vs, hv, hcells, _⟩ | ⟨hn, hflag, _⟩
  · rw [hcells]
    exact hv.readBack s.cells hj
  · rw [hN hn] at hflag; cases hflag

/-- Every cell of an operand whose cells were written is valid. -/
theorem Source.AdmitsAll.readCell_ne_none {vs : List Nat} (hv : d.AdmitsAll vs) (st : Store) {c : Nat}
    (hc : d.covers c) : readCell (writeCells st d.start vs) c ≠ none := by
  obtain ⟨hle, hlt⟩ := hc
  obtain ⟨v, hread, _⟩ := hv.readBack st (j := c - d.start) (by omega)
  rw [Nat.add_sub_cancel' hle] at hread
  simp [hread]

/-- No command writes two flags. -/
theorem writesT_writesL_of_writesN (hn : writesN i = true) : writesT i = false ∧ writesL i = false := by
  cases i with
  | invFq | invFr | invFq2 | invFq6 | invFq12 | divFq | divFr | divFq2 | divFq6 | divFq12 | sqrtFq | sqrtFr | pdec =>
    exact ⟨rfl, rfl⟩
  | _ => cases hn

/-- Settles O24: the destination after the effect, by the flag `N`, and the frame of the other flags. -/
theorem noneOutcome : Obligations.NoneOutcome := fun i s t d hn hd hs h ht => by
  have he := effect_of_exec hs h ht
  obtain ⟨hwT, hwL⟩ := writesT_writesL_of_writesN hn
  obtain ⟨hT, _, hL, _, hcode⟩ := he.flags_frame
  refine ⟨fun c hc => ?_, hcode, he.flt_fcmd.2, hT hwT, hL hwL⟩
  rcases he.destination hd with ⟨vs, hv, hcells, hN⟩ | ⟨_, hN, hcells⟩
  · simp [hcells, hN hn, hv.readCell_ne_none s.cells hc]
  · have hnone : readCell t.cells c = none := by rw [hcells, readCell_eraseCells]; exact if_pos hc
    simp [hnone, hN]

end

/-! ### The invariant: cells below `2^W` (R11) -/

section
variable {s t : State} {b : Nat}

/-- Every cell holds an integer below `b`. -/
def CellsBelow (b : Nat) (st : Store) : Prop := ∀ c v, readCell st c = some v → v < b

theorem CellsBelow.writeCells {st : Store} (h : CellsBelow b st) {vs : List Nat} (hvs : ∀ v ∈ vs, v < b) (i : Nat) :
    CellsBelow b (writeCells st i vs) := by
  intro c v hc
  rw [readCell_writeCells] at hc
  split at hc
  · exact hvs v (List.mem_of_getElem? hc)
  · exact h c v hc

theorem CellsBelow.eraseCells {st : Store} (h : CellsBelow b st) (i n : Nat) : CellsBelow b (eraseCells st i n) := by
  intro c v hc
  rw [readCell_eraseCells] at hc
  split at hc
  · cases hc
  · exact h c v hc

theorem CellsBelow.value (h : CellsBelow b s.cells) (hb : 0 < b) (i : Nat) : s.value i < b := by
  rw [State.value]
  cases hc : readCell s.cells i with
  | none => exact hb
  | some v => exact h i v hc

/-- A command whose effect is one run of writes keeps the bound of the integers written. -/
theorem command_write_below {srcs : List Source} {dsts : List Dest} {i : Nat} {vs : List Nat}
    (h : command srcs dsts s (.next (s.write i vs)) = .next t) (hs : CellsBelow b s.cells) (hvs : ∀ v ∈ vs, v < b) :
    CellsBelow b t.cells := by
  rcases command_cases h with ⟨_, hr⟩ | ⟨_, c, _, hr⟩ | ⟨_, _, hr⟩
  · cases hr; exact hs
  · cases hr; exact hs
  · cases hr; exact hs.writeCells hvs i

/-- The integer of a payload is below the power of two of its bits. -/
theorem payloadValue_lt (ls : List Limb) : payloadValue ls < 2 ^ (64 * ls.length) := by
  induction ls with
  | nil => simp [payloadValue]
  | cons l ls ih =>
    have hl : l.toNat < 2 ^ 64 := l.isLt
    have hpow : 2 ^ (64 * (ls.length + 1)) = 2 ^ 64 * 2 ^ (64 * ls.length) := by rw [← pow_add]; ring_nf
    rw [payloadValue, List.length_cons, hpow]
    nlinarith

/-- What a kind admits fits into a cell. -/
def CellKind.Fits (k : CellKind) : Prop := ∀ v, k.Admits v → v < 2 ^ Config.params.width

theorem fits_modulus_q : (CellKind.modulus Config.params.q).Fits := fun _ h => lt_trans h Config.q_lt
theorem fits_modulus_r : (CellKind.modulus Config.params.r).Fits := fun _ h => lt_trans h Config.r_lt
theorem fits_flag : CellKind.flag.Fits := fun _ h =>
  lt_of_le_of_lt h (Nat.one_lt_two_pow (Nat.ne_of_gt Config.params_wellFormed.width_pos))

/-- The commands that write raw integers. -/
def writesRaw : Instr → Bool
  | .ld _ | .ldi _ _ | .mov _ _ _ | .charFq _ | .charFr _ | .cof _ => true
  | _ => false

/-- A command that writes no raw integers writes field elements and flags. -/
theorem kinds_fit {i : Instr} (hraw : writesRaw i = false) {d : Source} (hd : instrResult i = some d) :
    ∀ k ∈ d.kinds, k.Fits := by
  have hcells : ∀ n c, ∀ k ∈ (fqCellsAt n c).kinds, k.Fits := fun n c k hk =>
    List.eq_of_mem_replicate hk ▸ fits_modulus_q
  have hfq : ∀ c, ∀ k ∈ (fqAt c).kinds, k.Fits := fun c => List.forall_mem_singleton.mpr fits_modulus_q
  have hfr : ∀ c, ∀ k ∈ (frAt c).kinds, k.Fits := fun c => List.forall_mem_singleton.mpr fits_modulus_r
  have haff : ∀ c, ∀ k ∈ (affAt c).kinds, k.Fits := fun c => by
    simp [affAt, fits_modulus_q, fits_flag]
  cases i with
  | ld | ldi | mov | charFq | charFr | cof => cases hraw
  | aneg | p2a | pgen | pdec => cases hd; exact haff _
  | bnorm rd => cases hd; exact hcells 3 rd
  | _ => cases hd <;> first | exact hcells _ _ | exact hfq _ | exact hfr _

/-- Admitted integers of kinds that fit into a cell do so. -/
theorem Source.AdmitsAll.below {d : Source} {vs : List Nat} (hv : d.AdmitsAll vs) (hk : ∀ k ∈ d.kinds, k.Fits) :
    ∀ v ∈ vs, v < 2 ^ Config.params.width := by
  intro v hmem
  obtain ⟨j, hj⟩ := List.mem_iff_getElem?.mp hmem
  have hlt : j < sourceWidth d := hv.1 ▸ (List.getElem?_eq_some_iff.mp hj).1
  obtain ⟨k, hkind⟩ := kindAt_isSome hlt
  exact hk k (List.mem_of_getElem? hkind) v (hv.2 j k v hkind hj)

/-- The effect of a command that writes no raw integers keeps the cells below `2^W`. -/
theorem Effect.below {i : Instr} (h : Effect i s t) (hraw : writesRaw i = false)
    (hs : CellsBelow (2 ^ Config.params.width) s.cells) : CellsBelow (2 ^ Config.params.width) t.cells := by
  cases h with
  | nothing | test | legendre | send => exact hs
  | result d vs _ hd _ hv | value d vs hd _ hv => exact hs.writeCells (hv.below (kinds_fit hraw hd)) _
  | absent d => exact hs.eraseCells _ _

/-- Every command keeps the cells below `2^W`: an integer that is written is admitted as an element or a flag, or is a
payload, an immediate, a constant of the record or the copy of a cell. -/
theorem exec_below {i : Instr} (h : exec i s = .next t) (hs : CellsBelow (2 ^ Config.params.width) s.cells) :
    CellsBelow (2 ^ Config.params.width) t.cells := by
  have hwf := Config.params_wellFormed
  cases hraw : writesRaw i with
  | false =>
    rcases exec_outcome h with ⟨_, rfl⟩ | ⟨_, c, rfl⟩ | ⟨_, he⟩
    · exact hs
    · exact hs
    · exact he.below hraw hs
  | true =>
    cases i with
    | ld rd =>
      by_cases hlen : s.payload.length = Config.params.limbs
      · have hcommand : exec (.ld rd) s =
            command [] [elemDest rawElem rd] s (.next (s.write rd.toNat [payloadValue s.payload])) := by
          simp only [exec, execLd, ldCommand, if_pos hlen]; rfl
        rw [hcommand] at h
        exact command_write_below h hs (by simpa [hwf.width_eq, ← hlen] using payloadValue_lt s.payload)
      · have hcommand : exec (.ld rd) s = command [] [elemDest rawElem rd] s (.refused .badPayload) := by
          simp only [exec, execLd, ldCommand, if_neg hlen]
        rw [hcommand] at h
        rcases command_cases h with ⟨_, hr⟩ | ⟨_, c, _, hr⟩ | ⟨_, _, hr⟩
        · cases hr; exact hs
        · cases hr; exact hs
        · cases hr
    | ldi rd imm =>
      have himm : imm.toNat < 2 ^ Config.params.width :=
        lt_of_lt_of_le imm.isLt (Nat.pow_le_pow_right (by decide) hwf.sixteen_le)
      exact command_write_below h hs (List.forall_mem_singleton.mpr himm)
    | mov rd ra n =>
      refine command_write_below h hs fun v hv => ?_
      obtain ⟨j, _, rfl⟩ := List.mem_map.mp hv
      exact hs.value (Nat.two_pow_pos _) _
    | charFq rd => exact command_write_below h hs (List.forall_mem_singleton.mpr Config.q_lt)
    | charFr rd => exact command_write_below h hs (List.forall_mem_singleton.mpr Config.r_lt)
    | cof rd => exact command_write_below h hs (List.forall_mem_singleton.mpr hwf.cofactor_lt)
    | _ => cases hraw

end

/-! ### The invariant along a step -/

section
variable {s t : State}

/-- The destination of a command that passed its checks lies in the store. -/
theorem inStore_of_passesChecks {i : Instr} {st : Store} (hp : passesChecks i st) {d : Source}
    (hd : instrResult i = some d) : d.start + sourceWidth d ≤ 256 :=
  Nat.le_of_not_lt fun hlt => hp .range (.inr ⟨d, hd, hlt⟩)

/-- The effect of a command that passed its checks keeps the canonical form. -/
theorem Effect.storeWf {i : Instr} (h : Effect i s t) (hp : passesChecks i s.cells) (hs : storeWf s.cells) :
    storeWf t.cells := by
  cases h with
  | nothing | test | legendre | send => exact hs
  | result d vs _ hd _ hv | value d vs hd _ hv =>
    exact writeCells_wf hs (by rw [hv.1]; exact inStore_of_passesChecks hp hd)
  | absent d => exact eraseCells_wf hs _ _

/-- The class codes are not 3 (R16). -/
theorem legendreCode_ne_three (c : Legendre) : legendreCode c ≠ 3 := by cases c <;> decide

theorem Effect.flagL_ne_three {i : Instr} (h : Effect i s t) (hs : s.flagL ≠ 3) : t.flagL ≠ 3 := by
  cases h with
  | nothing | result | send => exact hs
  | value | absent | test => simpa using hs
  | legendre c => simpa using legendreCode_ne_three c

/-- The invariant speaks of the store, `STATUS` and `FCMD` alone. -/
theorem State.Inv.congr (h : s.Inv) (hcells : t.cells = s.cells) (hstatus : t.status = s.status)
    (hfcmd : t.fcmd = s.fcmd) : t.Inv := by
  obtain ⟨hstore, hfits, hreserved, hleg, hcode, hlatch, hclear⟩ := h
  constructor <;> simp only [State.flagL, State.fcode, State.flt, hcells, hstatus, hfcmd] <;> assumption

/-- Fault entry keeps the invariant. -/
theorem takeFault_inv (c : FaultCode) (h : s.Inv) : (takeFault c s).Inv where
  store := h.store
  fits := h.fits
  reserved := by rw [takeFault_reserved]; exact h.reserved
  legendre := by rw [takeFault_flagL]; exact h.legendre
  code := by rw [takeFault_fcode]; cases c <;> decide
  latch := by rw [takeFault_flt, takeFault_fcode]; cases c <;> decide
  clear := by simp

/-- The effect of a command that passed its checks keeps the invariant. -/
theorem effect_inv {i : Instr} (hs : s.flt = false) (h : exec i s = .next t) (he : Effect i s t) (hinv : s.Inv) :
    t.Inv := by
  obtain ⟨_, _, _, hreserved, hcode⟩ := he.flags_frame
  obtain ⟨hflt, hfcmd⟩ := he.flt_fcmd
  have hp := passesChecks_of_exec hs h (hflt.trans hs)
  exact {
    store := he.storeWf hp hinv.store
    fits := exec_below h hinv.fits
    reserved := hreserved.trans hinv.reserved
    legendre := he.flagL_ne_three hinv.legendre
    code := hcode ▸ hinv.code
    latch := by rw [hflt, hcode]; exact hinv.latch
    clear := fun _ => hfcmd.trans (hinv.clear hs) }

/-- Every command keeps the invariant. -/
theorem exec_inv {i : Instr} (h : exec i s = .next t) (hinv : s.Inv) : t.Inv := by
  rcases exec_outcome h with ⟨_, rfl⟩ | ⟨_, c, rfl⟩ | ⟨hs, he⟩
  · exact hinv
  · exact takeFault_inv c hinv
  · exact effect_inv hs h he hinv

/-- A block with an empty store, `STATUS = 0` and `FCMD = 0` satisfies the invariant. -/
theorem inv_of_cleared (hcells : s.cells = []) (hstatus : s.status = 0) (hfcmd : s.fcmd = 0) : s.Inv := by
  constructor <;> simp [State.flagL, State.fcode, State.flt, hcells, hstatus, hfcmd, storeWf]

/-- Settles O10. -/
theorem resetMeetsInv : Obligations.ResetMeetsInv := inv_of_cleared rfl rfl rfl

/-- Settles O11, by the host's next event: reset clears the block, and a transaction is fault entry or a command. -/
theorem stepKeepsInv : Obligations.StepKeepsInv := fun s t hinv h => by
  rcases step_cases h with ⟨_, rfl⟩ | ⟨rest, _, rfl⟩ | ⟨w, payload, rest, _, _, hserve⟩
  · exact hinv
  · exact inv_of_cleared rfl rfl rfl
  · have hbegin : (s.begin w payload rest).Inv := hinv.congr rfl rfl rfl
    obtain ⟨u, rfl, hu⟩ := serve_cases hserve
    have hinvu : u.Inv := by
      rcases hu with ⟨_, rfl⟩ | ⟨_, _, rfl⟩ | ⟨_, i, _, hexec⟩
      · exact hbegin
      · exact takeFault_inv .illegal hbegin
      · exact exec_inv hexec hbegin
    exact hinvu.congr rfl rfl rfl

end

end Sys2Proof.Machine
end

section
/-! A command depends only on its sources (10_state.md R22): two states that agree on the source cells, the payload and the
count of free values load the same operands, fail the same checks, and are left alike in all that the command writes. -/

namespace Sys2Proof.Machine

/-! ### Operands read from agreeing stores -/

/-- The two stores agree on every cell of the operand. -/
def Source.Agree (o : Source) (st st' : Store) : Prop := ∀ c, o.covers c → readCell st c = readCell st' c

/-- The two states agree on all that the command reads. -/
structure SameSources (i : Instr) (s s' : State) : Prop where
  payload : s.payload = s'.payload
  drawn : s.drawn = s'.drawn
  cells : ∀ o ∈ instrSources i, o.Agree s.cells s'.cells

/-- The cells of a value are as many as the type has kinds, and reading looks at no more cells than these. -/
structure ElemTy.Layout {α : Type} (t : ElemTy α) : Prop where
  length : ∀ a, (t.cells a).length = t.kinds.length
  read_congr : ∀ (get get' : Nat → Nat) (i : Nat), (∀ j < t.kinds.length, get (i + j) = get' (i + j)) →
    t.read get i = t.read get' i

theorem HasForm.layout {α : Type} {t : ElemTy α} {A : Form α} (h : HasForm t A) : t.Layout where
  length a := by rw [h.cells, h.length, h.width]
  read_congr get get' i heq := h.read _ _ _ fun j v hj => by
    have hlt : j < A.width := by
      have := (List.getElem?_eq_some_iff.mp hj).1
      rwa [h.length] at this
    rw [h.loaded get' i j hlt, Option.some.injEq] at hj
    rw [heq j (h.width ▸ hlt), hj]

@[simp] theorem rawElem_layout : rawElem.Layout := rawElem_form.layout
@[simp] theorem primeElem_layout (m : Nat) : (primeElem m).Layout := (primeElem_form m).layout
@[simp] theorem fq2Elem_layout : (fq2Elem Config.params).Layout := fq2Elem_form.layout
@[simp] theorem fq6Elem_layout : (fq6Elem Config.params).Layout := fq6Elem_form.layout
@[simp] theorem fq12Elem_layout : (fq12Elem Config.params).Layout := fq12Elem_form.layout
@[simp] theorem affElem_layout : (affElem Config.params).Layout := affElem_form.layout
@[simp] theorem jacElem_layout : (jacElem Config.params).Layout := jacElem_form.layout
@[simp] theorem sparsePairElem_layout : (sparsePairElem Config.params).Layout := sparsePairElem_form.layout
@[simp] theorem sparseTripleElem_layout : (sparseTripleElem Config.params).Layout := sparseTripleElem_form.layout

section
variable {α : Type} {t : ElemTy α} {s s' : State} {i : CellIdx}

/-- Agreeing stores hold the same vector. -/
theorem loadVector_congr (ht : t.Layout) {n : Nat} (h : (vectorSource t i n).Agree s.cells s'.cells) :
    loadVector t s i n = loadVector t s' i n := by
  refine List.map_congr_left fun j hj => ht.read_congr _ _ _ fun k hk => ?_
  have hlast : (j + 1) * t.kinds.length ≤ n * t.kinds.length := Nat.mul_le_mul_right _ (List.mem_range.mp hj)
  have hcovers : (vectorSource t i n).covers (i.toNat + j * elemWidth t + k) := by
    simp only [Source.covers, vectorSource, sourceWidth, elemWidth, Nat.succ_mul] at hlast ⊢
    omega
  rw [State.value, State.value, h _ hcovers]

/-- Agreeing stores hold the same element. -/
theorem loadElem_congr (ht : t.Layout) (h : (elemSource t i).Agree s.cells s'.cells) :
    loadElem t s i = loadElem t s' i := by
  simpa [loadVector, loadElem] using loadVector_congr (n := 1) ht h

end

/-! ### The checks -/

section
variable {i : Instr} {s s' : State}

theorem SameSources.symm (h : SameSources i s s') : SameSources i s' s :=
  ⟨h.payload.symm, h.drawn.symm, fun o ho c hc => (h.cells o ho c hc).symm⟩

/-- A cell of a source operand reads alike. -/
theorem SameSources.readCell_eq (h : SameSources i s s') {o : Source} (ho : o ∈ instrSources i) {j : Nat}
    (hj : j < sourceWidth o) : readCell s.cells (o.start + j) = readCell s'.cells (o.start + j) :=
  h.cells o ho _ ⟨Nat.le_add_right _ _, Nat.add_lt_add_left hj _⟩

theorem SameSources.violates (h : SameSources i s s') {c : FaultCode} (hv : violates i s.cells c) :
    violates i s'.cells c := by
  cases c with
  | illegal => exact hv
  | range => exact hv
  | unwritten =>
    obtain ⟨o, ho, j, hj, hn⟩ := hv
    exact ⟨o, ho, j, hj, h.readCell_eq ho hj ▸ hn⟩
  | badFlag =>
    obtain ⟨o, ho, j, hj, v, hk, hr, hlt⟩ := hv
    exact ⟨o, ho, j, hj, v, hk, h.readCell_eq ho hj ▸ hr, hlt⟩
  | unreduced =>
    obtain ⟨o, ho, j, hj, m, v, hk, hr, hle⟩ := hv
    exact ⟨o, ho, j, hj, m, v, hk, h.readCell_eq ho hj ▸ hr, hle⟩

theorem SameSources.violates_iff (h : SameSources i s s') {c : FaultCode} :
    Machine.violates i s.cells c ↔ Machine.violates i s'.cells c :=
  ⟨h.violates, h.symm.violates⟩

end

/-! ### The effects -/

/-- The two states agree on all that the command writes when it completes. -/
structure SameWrites (i : Instr) (t t' : State) : Prop where
  cells : ∀ c, writesCell i c → readCell t'.cells c = readCell t.cells c
  flagT : writesT i = true → t'.flagT = t.flagT
  flagN : writesN i = true → t'.flagN = t.flagN
  flagL : writesL i = true → t'.flagL = t.flagL
  portOut : sendsPayload i = true → t'.portOut = t.portOut
  drawn : t'.drawn = t.drawn

/-- The effect of a command answers alike from states that agree on its sources. -/
def Determined (i : Instr) (e : State → Result) : Prop :=
  ∀ s s' t, SameSources i s s' → e s = .next t → ∃ t', e s' = .next t' ∧ SameWrites i t t'

section
variable {i : Instr}

/-- The predicates write no cell. -/
theorem instrResult_of_writesT (ht : writesT i = true) : instrResult i = none := by
  cases i with
  | iszFq | iszFr | iszFq2 | iszFq6 | iszFq12 | isoneFq | isoneFr | isoneFq2 | isoneFq6 | isoneFq12
  | eqFq | eqFr | eqFq2 | eqFq6 | eqFq12 | pisz | aisz | peq => rfl
  | _ => cases ht

/-- The meaning of the instruction is `command` over the operands the rules list and an effect that they determine. -/
def DeterminedCommand (i : Instr) : Prop :=
  ∃ e : State → Result, (∀ s, exec i s = command (instrSources i) (destOf i) s (e s)) ∧ Determined i e

/-- An effect with a next state that is a function of what it reads is determined. -/
theorem determined_next {f : State → State} (h : ∀ s s', SameSources i s s' → SameWrites i (f s) (f s')) :
    Determined i fun s => .next (f s) := by
  rintro s s' _ hs ⟨⟩
  exact ⟨_, rfl, h s s' hs⟩

/-- What is written to a run of cells reads alike in both stores. -/
theorem readCell_writeCells_congr {d : Source} {vs : List Nat} (hlen : vs.length = sourceWidth d) {c : Nat}
    (hc : d.covers c) (st st' : Store) :
    readCell (writeCells st' d.start vs) c = readCell (writeCells st d.start vs) c := by
  have hin : d.start ≤ c ∧ c < d.start + vs.length := hlen ▸ hc
  rw [readCell_writeCells, readCell_writeCells, if_pos hin, if_pos hin]

/-- Two states with the same integers written over the destination, and the same flag `N`. -/
theorem sameWrites_of_write {d : Source} (hd : instrResult i = some d) {vs : List Nat}
    (hlen : vs.length = sourceWidth d) {t t' : State} {st st' : Store} (ht : t.cells = writeCells st d.start vs)
    (ht' : t'.cells = writeCells st' d.start vs) (hN : writesN i = true → t'.flagN = t.flagN)
    (hdrawn : t'.drawn = t.drawn) : SameWrites i t t' where
  cells c hc := by
    obtain ⟨d', hd', hcov⟩ := hc
    obtain rfl := Option.some.inj (hd.symm.trans hd')
    rw [ht, ht']
    exact readCell_writeCells_congr hlen hcov _ _
  flagT hT := by rw [instrResult_of_writesT hT] at hd; cases hd
  flagN := hN
  flagL hL := by rw [instrResult_of_writesL hL] at hd; cases hd
  portOut ho := by rw [instrResult_of_sendsPayload ho] at hd; cases hd
  drawn := hdrawn

section
variable {α β γ : Type} {ta : ElemTy α} {tb : ElemTy β} {td : ElemTy γ} {rd ra rb : CellIdx} {s s' : State}

/-- The same element written by both. -/
theorem sameWrites_storeElem (hd : instrResult i = some (elemSource td rd)) (hn : writesN i = false) (htd : td.Layout)
    (hdrawn : s.drawn = s'.drawn) (v : γ) : SameWrites i (storeElem td s rd v) (storeElem td s' rd v) :=
  sameWrites_of_write hd (by rw [htd.length]; exact (Nat.one_mul _).symm) rfl rfl (by simp [hn]) hdrawn.symm

/-- The same answer of a `None`-capable command. -/
theorem sameWrites_storeOption (hd : instrResult i = some (elemSource td rd)) (hn : writesN i = true)
    (htd : td.Layout) (hdrawn : s.drawn = s'.drawn) (o : Option γ) :
    SameWrites i (storeOption td s rd o) (storeOption td s' rd o) := by
  cases o with
  | some v =>
    exact sameWrites_of_write hd (by rw [htd.length]; exact (Nat.one_mul _).symm) rfl rfl
      (fun _ => by simp [storeOption, storeElem]) hdrawn.symm
  | none =>
    obtain ⟨hT, hL⟩ := writesT_writesL_of_writesN hn
    refine ⟨fun c hc => ?_, by simp [hT], fun _ => by simp [storeOption], by simp [hL], fun ho => ?_, hdrawn.symm⟩
    · obtain ⟨d', hd', hcov⟩ := hc
      obtain rfl := Option.some.inj (hd.symm.trans hd')
      have hin : rd.toNat ≤ c ∧ c < rd.toNat + elemWidth td := by
        simpa [Source.covers, sourceWidth, elemSource, vectorSource, elemWidth] using hcov
      simp [storeOption, readCell_eraseCells, hin]
    · rw [instrResult_of_sendsPayload ho] at hd; cases hd

/-- The same truth value. -/
theorem sameWrites_setT (hT : writesT i = true) (hdrawn : s.drawn = s'.drawn) (b : Bool) :
    SameWrites i (s.setT b) (s'.setT b) where
  cells c hc := by
    obtain ⟨d, hd, _⟩ := hc
    rw [instrResult_of_writesT hT] at hd; cases hd
  flagT _ := by simp
  flagN hN := by rw [(writesT_writesL_of_writesN hN).1] at hT; cases hT
  flagL hL := by
    cases i with
    | legFq | legFr => cases hT
    | _ => cases hL
  portOut ho := by
    cases i with
    | st => cases hT
    | _ => cases ho
  drawn := hdrawn.symm

/-! The shapes of a command: each writes a function of the operands it loads. -/

theorem const_determined (v : γ) (hd : instrResult i = some (elemSource td rd)) (hn : writesN i = false)
    (htd : td.Layout) : Determined i fun s => .next (storeElem td s rd v) :=
  determined_next fun _ _ hs => sameWrites_storeElem hd hn htd hs.drawn v

theorem unary_determined (f : α → γ) (hsrc : instrSources i = [elemSource ta ra])
    (hd : instrResult i = some (elemSource td rd)) (hn : writesN i = false) (hta : ta.Layout) (htd : td.Layout) :
    Determined i fun s => .next (storeElem td s rd (f (loadElem ta s ra))) :=
  determined_next fun s s' hs => by
    rw [loadElem_congr hta (hs.cells _ (by simp [hsrc]))]
    exact sameWrites_storeElem hd hn htd hs.drawn _

theorem binary_determined (f : α → β → γ) (hsrc : instrSources i = [elemSource ta ra, elemSource tb rb])
    (hd : instrResult i = some (elemSource td rd)) (hn : writesN i = false) (hta : ta.Layout) (htb : tb.Layout)
    (htd : td.Layout) : Determined i fun s => .next (storeElem td s rd (f (loadElem ta s ra) (loadElem tb s rb))) :=
  determined_next fun s s' hs => by
    rw [loadElem_congr hta (hs.cells _ (by simp [hsrc])), loadElem_congr htb (hs.cells _ (by simp [hsrc]))]
    exact sameWrites_storeElem hd hn htd hs.drawn _

theorem partialUnary_determined (f : α → Option γ) (hsrc : instrSources i = [elemSource ta ra])
    (hd : instrResult i = some (elemSource td rd)) (hn : writesN i = true) (hta : ta.Layout) (htd : td.Layout) :
    Determined i fun s => .next (storeOption td s rd (f (loadElem ta s ra))) :=
  determined_next fun s s' hs => by
    rw [loadElem_congr hta (hs.cells _ (by simp [hsrc]))]
    exact sameWrites_storeOption hd hn htd hs.drawn _

theorem partialBinary_determined (f : α → β → Option γ) (hsrc : instrSources i = [elemSource ta ra, elemSource tb rb])
    (hd : instrResult i = some (elemSource td rd)) (hn : writesN i = true) (hta : ta.Layout) (htb : tb.Layout)
    (htd : td.Layout) : Determined i fun s => .next (storeOption td s rd (f (loadElem ta s ra) (loadElem tb s rb))) :=
  determined_next fun s s' hs => by
    rw [loadElem_congr hta (hs.cells _ (by simp [hsrc])), loadElem_congr htb (hs.cells _ (by simp [hsrc]))]
    exact sameWrites_storeOption hd hn htd hs.drawn _

theorem test_determined (f : α → Bool) (hsrc : instrSources i = [elemSource ta ra]) (hT : writesT i = true)
    (hta : ta.Layout) : Determined i fun s => .next (s.setT (f (loadElem ta s ra))) :=
  determined_next fun s s' hs => by
    rw [loadElem_congr hta (hs.cells _ (by simp [hsrc]))]
    exact sameWrites_setT hT hs.drawn _

theorem compare_determined (f : α → β → Bool) (hsrc : instrSources i = [elemSource ta ra, elemSource tb rb])
    (hT : writesT i = true) (hta : ta.Layout) (htb : tb.Layout) :
    Determined i fun s => .next (s.setT (f (loadElem ta s ra) (loadElem tb s rb))) :=
  determined_next fun s s' hs => by
    rw [loadElem_congr hta (hs.cells _ (by simp [hsrc])), loadElem_congr htb (hs.cells _ (by simp [hsrc]))]
    exact sameWrites_setT hT hs.drawn _

theorem sop_determined {n : Nat} (f : List α → List α → γ)
    (hsrc : instrSources i = [vectorSource ta ra n, vectorSource ta rb n])
    (hd : instrResult i = some (elemSource td rd)) (hn : writesN i = false) (hta : ta.Layout) (htd : td.Layout) :
    Determined i fun s => .next (storeElem td s rd (f (loadVector ta s ra n) (loadVector ta s rb n))) :=
  determined_next fun s s' hs => by
    rw [loadVector_congr hta (hs.cells _ (by simp [hsrc])), loadVector_congr hta (hs.cells _ (by simp [hsrc]))]
    exact sameWrites_storeElem hd hn htd hs.drawn _

theorem leg_determined {m : Nat} (f : Nat → Legendre) (hsrc : instrSources i = [elemSource (primeElem m) ra])
    (hL : writesL i = true) : Determined i fun s => .next (s.setL (f (loadElem (primeElem m) s ra))) :=
  determined_next fun s s' hs => by
    rw [loadElem_congr (primeElem_layout m) (hs.cells _ (by simp [hsrc]))]
    refine ⟨fun c hc => ?_, fun hT => ?_, fun hN => ?_, fun _ => by simp, fun ho => ?_, hs.drawn.symm⟩
    · obtain ⟨d, hd, _⟩ := hc
      rw [instrResult_of_writesL hL] at hd; cases hd
    all_goals
      cases i with
      | legFq | legFr => first | cases hT | cases hN | cases ho
      | _ => cases hL

/-- The same root, or the same want of one, stored by both. -/
theorem storeRoot_determined (hsrc : instrSources i = [elemSource ta ra])
    (hd : instrResult i = some (elemSource td rd)) (hn : writesN i = true) (hta : ta.Layout) (htd : td.Layout)
    (mk : α → Nat → γ) (root : α → SqrtResult) : Determined i fun s => storeRoot td s rd (mk (loadElem ta s ra)) (root (loadElem ta s ra)) := by
  intro s s' t hs h
  have hload : loadElem ta s ra = loadElem ta s' ra := loadElem_congr hta (hs.cells _ (by simp [hsrc]))
  simp only [hload] at h ⊢
  generalize root (loadElem ta s' ra) = r at h ⊢
  cases r with
  | root | nonResidue =>
    cases h
    exact ⟨_, rfl, sameWrites_storeOption hd hn htd hs.drawn _⟩
  | hang => cases h

/-- The same element and value of a cyclotomic command, from the same count of free values. -/
theorem sameWrites_storeCyclotomic (hd : instrResult i = some (elemSource (fq12Elem Config.params) rd))
    (hn : writesN i = false) (hdrawn : s.drawn = s'.drawn) (a v : Fq12) :
    SameWrites i (storeCyclotomic Config.params s rd a v) (storeCyclotomic Config.params s' rd a v) := by
  unfold storeCyclotomic
  split
  · exact sameWrites_storeElem hd hn fq12Elem_layout hdrawn v
  · rw [hdrawn]
    exact sameWrites_of_write hd (by rw [fq12Elem_layout.length]; exact (Nat.one_mul _).symm) rfl rfl (by simp [hn]) rfl

theorem cycsqr_determined : DeterminedCommand (.cycsqrFq12 rd ra) := by
  refine ⟨_, fun _ => rfl, determined_next fun s s' hs => ?_⟩
  rw [loadElem_congr fq12Elem_layout (hs.cells _ (List.mem_singleton.mpr rfl))]
  exact sameWrites_storeCyclotomic rfl rfl hs.drawn _ _

theorem cycexp_determined : DeterminedCommand (.cycexpFq12 rd ra rb) := by
  refine ⟨_, fun _ => rfl, determined_next fun s s' hs => ?_⟩
  rw [loadElem_congr fq12Elem_layout (hs.cells (elemSource _ ra) List.mem_cons_self),
    loadElem_congr rawElem_layout (hs.cells (elemSource rawElem rb) (.tail _ List.mem_cons_self))]
  exact sameWrites_storeCyclotomic rfl rfl hs.drawn _ _

end

section
variable {rd ra : CellIdx} {n : Imm}

theorem nop_determined : DeterminedCommand .nop :=
  ⟨_, fun _ => rfl, determined_next (f := id) fun s s' hs =>
    ⟨fun c hc => (by obtain ⟨d, hd, _⟩ := hc; cases hd), nofun, nofun, nofun, nofun, hs.drawn.symm⟩⟩

theorem ld_determined : DeterminedCommand (.ld rd) := by
  refine ⟨_, fun _ => rfl, fun s s' t hs h => ?_⟩
  simp only [hs.payload] at h ⊢
  split at h
  · cases h
    exact ⟨_, by rw [if_pos ‹_›], sameWrites_storeElem rfl rfl rawElem_layout hs.drawn _⟩
  · cases h

theorem st_determined : DeterminedCommand (.st ra) := by
  refine ⟨_, fun _ => rfl, determined_next fun s s' hs => ?_⟩
  rw [loadElem_congr rawElem_layout (hs.cells _ (List.mem_singleton.mpr rfl))]
  exact ⟨fun c hc => (by obtain ⟨d, hd, _⟩ := hc; cases hd), nofun, nofun, nofun, fun _ => rfl, hs.drawn.symm⟩

theorem mov_determined : DeterminedCommand (.mov rd ra n) := by
  refine ⟨_, fun _ => rfl, determined_next fun s s' hs => ?_⟩
  rw [loadVector_congr rawElem_layout (hs.cells _ (List.mem_singleton.mpr rfl))]
  exact sameWrites_of_write rfl ((length_loadVector s' ra n.toNat).trans (Nat.mul_one _).symm) rfl rfl nofun
    hs.drawn.symm

theorem bnorm_determined : DeterminedCommand (.bnorm rd n) := by
  refine ⟨_, fun _ => rfl, determined_next fun s s' hs => ?_⟩
  rw [loadVector_congr jacElem_layout (hs.cells _ (List.mem_singleton.mpr rfl)), funext jacElem_form.cells]
  refine sameWrites_of_write rfl ?_ rfl rfl nofun hs.drawn.symm
  rw [length_flatMap_cells jacElem_form, batchNormalize, List.length_map, length_loadVector]
  rfl

end

/-! ### Every instruction -/

theorem predicate_determined (hT : writesT i = true) : DeterminedCommand i := by
  cases i with
  | iszFq | iszFr => exact ⟨_, fun _ => rfl, test_determined (fun a : Nat => decide (a = 0)) rfl rfl (by simp)⟩
  | iszFq2 => exact ⟨_, fun _ => rfl, test_determined (fun a : Fq2 => decide (a = fq2Zero)) rfl rfl (by simp)⟩
  | iszFq6 => exact ⟨_, fun _ => rfl, test_determined (fun a : Fq6 => decide (a = fq6Zero)) rfl rfl (by simp)⟩
  | iszFq12 => exact ⟨_, fun _ => rfl, test_determined (fun a : Fq12 => decide (a = fq12Zero)) rfl rfl (by simp)⟩
  | isoneFq | isoneFr => exact ⟨_, fun _ => rfl, test_determined (fun a : Nat => decide (a = 1)) rfl rfl (by simp)⟩
  | isoneFq2 => exact ⟨_, fun _ => rfl, test_determined (fun a : Fq2 => decide (a = fq2One)) rfl rfl (by simp)⟩
  | isoneFq6 => exact ⟨_, fun _ => rfl, test_determined (fun a : Fq6 => decide (a = fq6One)) rfl rfl (by simp)⟩
  | isoneFq12 => exact ⟨_, fun _ => rfl, test_determined (fun a : Fq12 => decide (a = fq12One)) rfl rfl (by simp)⟩
  | pisz => exact ⟨_, fun _ => rfl, test_determined (fun P : Jacobian => decide (P.z = 0)) rfl rfl (by simp)⟩
  | aisz => exact ⟨_, fun _ => rfl, test_determined (fun P : Affine => decide (P.inf = 1)) rfl rfl (by simp)⟩
  | eqFq | eqFr =>
    exact ⟨_, fun _ => rfl, compare_determined (fun a b : Nat => decide (a = b)) rfl rfl (by simp) (by simp)⟩
  | eqFq2 => exact ⟨_, fun _ => rfl, compare_determined (fun a b : Fq2 => decide (a = b)) rfl rfl (by simp) (by simp)⟩
  | eqFq6 => exact ⟨_, fun _ => rfl, compare_determined (fun a b : Fq6 => decide (a = b)) rfl rfl (by simp) (by simp)⟩
  | eqFq12 => exact ⟨_, fun _ => rfl, compare_determined (fun a b : Fq12 => decide (a = b)) rfl rfl (by simp) (by simp)⟩
  | peq => exact ⟨_, fun _ => rfl, compare_determined (jacEq Config.params) rfl rfl (by simp) (by simp)⟩
  | _ => cases hT

theorem partial_determined (hi : i.wellFormed = true) (hN : writesN i = true) : DeterminedCommand i := by
  cases i with
  | pdec rd ra sign =>
    have hsign : sign.toNat ≤ 1 := by simpa [Instr.wellFormed, signSelectorOk] using hi
    exact ⟨_, fun s => if_pos hsign, storeRoot_determined rfl rfl rfl (by simp) (by simp)
      (fun x => decodedPoint Config.params x _) fun x => sqrtMod Config.params.fq (curveRhs Config.params x)⟩
  | sqrtFq | sqrtFr => exact ⟨_, fun _ => rfl, storeRoot_determined rfl rfl rfl (by simp) (by simp) (fun _ => id) _⟩
  | invFq | invFr | invFq2 | invFq6 | invFq12 =>
    exact ⟨_, fun _ => rfl, partialUnary_determined _ rfl rfl rfl (by simp) (by simp)⟩
  | divFq | divFr | divFq2 | divFq6 | divFq12 =>
    exact ⟨_, fun _ => rfl, partialBinary_determined _ rfl rfl rfl (by simp) (by simp) (by simp)⟩
  | _ => cases hN

/-- The meaning of every well-formed instruction is determined by the operands the rules list. -/
theorem exec_determined (hi : i.wellFormed = true) : DeterminedCommand i := by
  cases hT : writesT i with
  | true => exact predicate_determined hT
  | false =>
    cases hN : writesN i with
    | true => exact partial_determined hi hN
    | false =>
      cases i with
      | nop => exact nop_determined
      | ld => exact ld_determined
      | st => exact st_determined
      | mov => exact mov_determined
      | bnorm => exact bnorm_determined
      | cycsqrFq12 => exact cycsqr_determined
      | cycexpFq12 => exact cycexp_determined
      | legFq | legFr => exact ⟨_, fun _ => rfl, leg_determined _ rfl rfl⟩
      | sopFq | sopFr | sopFq2 | sopFq6 | sopFq12 =>
        exact ⟨_, fun _ => rfl, sop_determined _ rfl rfl rfl (by simp) (by simp)⟩
      | ldi | zeroFq | zeroFr | zeroFq2 | zeroFq6 | zeroFq12 | oneFq | oneFr | oneFq2 | oneFq6 | oneFq12 | charFq
      | charFr | pzero | pgen | cof =>
        exact ⟨_, fun _ => rfl, const_determined _ rfl rfl (by simp)⟩
      | redFq =>
        exact ⟨_, fun _ => rfl, unary_determined (fun v : Nat => v % Config.params.q) rfl rfl rfl (by simp) (by simp)⟩
      | redFr =>
        exact ⟨_, fun _ => rfl, unary_determined (fun v : Nat => v % Config.params.r) rfl rfl rfl (by simp) (by simp)⟩
      | negFq | negFr | negFq2 | negFq6 | negFq12 | dblFq | dblFr | dblFq2 | dblFq6 | dblFq12
      | sqrFq | sqrFr | sqrFq2 | sqrFq6 | sqrFq12 | frobFq2 | frobFq6 | frobFq12
      | mulnrFq | mulnrFq2 | mulnrFq6 | pdbl | aneg | a2p | p2a =>
        exact ⟨_, fun _ => rfl, unary_determined _ rfl rfl rfl (by simp) (by simp)⟩
      | mul01Fq6 =>
        exact ⟨_, fun _ => rfl, binary_determined (fun (a : Fq6) (t : Fq2 × Fq2) =>
          fq6Mul Config.params a (sparse01 t.1 t.2)) rfl rfl rfl (by simp) (by simp) (by simp)⟩
      | mul014Fq12 =>
        exact ⟨_, fun _ => rfl, binary_determined (fun (a : Fq12) (t : Fq2 × Fq2 × Fq2) =>
          fq12Mul Config.params a (sparse014 t.1 t.2.1 t.2.2)) rfl rfl rfl (by simp) (by simp) (by simp)⟩
      | mul034Fq12 =>
        exact ⟨_, fun _ => rfl, binary_determined (fun (a : Fq12) (t : Fq2 × Fq2 × Fq2) =>
          fq12Mul Config.params a (sparse034 t.1 t.2.1 t.2.2)) rfl rfl rfl (by simp) (by simp) (by simp)⟩
      | addFq | addFr | addFq2 | addFq6 | addFq12 | subFq | subFr | subFq2 | subFq6 | subFq12
      | mulFq | mulFr | mulFq2 | mulFq6 | mulFq12 | powFq | powFr | powFq2 | powFq6 | powFq12
      | padd | paddm | pmuln | pmul =>
        exact ⟨_, fun _ => rfl, binary_determined _ rfl rfl rfl (by simp) (by simp) (by simp)⟩
      | invFq | invFr | invFq2 | invFq6 | invFq12 | divFq | divFr | divFq2 | divFq6 | divFq12 | sqrtFq | sqrtFr | pdec =>
        cases hN
      | _ => cases hT

end

/-- Settles O22: agreeing states fail the same checks, and a completed command has a determined effect. -/
theorem readsOnlySources : Obligations.ReadsOnlySources := fun i s s' t hs hs' hpayload hdrawn hcells h => by
  have hsame : SameSources i s s' := ⟨hpayload, hdrawn, hcells⟩
  by_cases hp : passesChecks i s.cells
  · have hp' : passesChecks i s'.cells := fun c hv => hp c (hsame.violates_iff.mpr hv)
    have hi : i.wellFormed = true := Bool.eq_true_of_not_eq_false (hp .illegal)
    obtain ⟨e, he, hdet⟩ := exec_determined hi
    have hrun : exec i s = e s := by rw [he, command_run hs (violation_of_passesChecks hp)]
    have hrun' : exec i s' = e s' := by rw [he, command_run hs' (violation_of_passesChecks hp')]
    obtain ⟨t', ht', hsw⟩ := hdet s s' t hsame (hrun ▸ h)
    have hflt := exec_flt_of_passesChecks hs hp h
    refine ⟨t', hrun'.trans ht', ?_, by simp [hflt], fun _ =>
      ⟨hsw.cells, hsw.flagT, hsw.flagN, hsw.flagL, hsw.portOut, hsw.drawn⟩⟩
    rw [exec_flt_of_passesChecks hs' hp' (hrun'.trans ht'), hflt]
  · obtain ⟨c, hc⟩ := exists_firstViolation hp
    have hc' : firstViolation i s'.cells c :=
      ⟨hsame.violates_iff.mp hc.1, fun d hd => hc.2 d (hsame.violates_iff.mpr hd)⟩
    rw [exec_of_firstViolation hs hc] at h
    cases h
    exact ⟨_, exec_of_firstViolation hs' hc', by simp, by simp, by simp⟩

end Sys2Proof.Machine
end

section
/-! Results of the commands whose value is one formula of the rules: system commands, constants, predicates, the adder and
the multiplier in the five fields (41_prime_field.md, 42_extension_tower.md, 43_frobenius_sparse_cyclotomic.md). -/

namespace Sys2Proof.Machine

/-! ### From a value function to the result of its command -/

section
variable {α β γ : Type} {ta : ElemTy α} {tb : ElemTy β} {td : ElemTy γ}
variable {A : Form α} {B : Form β} {C : Form γ}

theorem constant_of (hC : HasForm td C) {mk : CellIdx → Instr} (c : γ)
    (hexec : ∀ rd s, exec (mk rd) s = constCommand td c rd s) : Constant C mk c := fun s rd hs hd => by
  rw [hexec, constCommand_next hC hs hd]

theorem unary_of (hA : HasForm ta A) (hC : HasForm td C) {mk : CellIdx → CellIdx → Instr} {R : α → γ → Prop}
    (f : α → γ) (hexec : ∀ rd ra s, exec (mk rd ra) s = unaryCommand ta td f rd ra s)
    (hf : ∀ a, A.valid a → C.valid (f a) ∧ R a (f a)) : Unary A C mk R := fun s rd ra a hs ha h1 hd => by
  obtain ⟨hvalid, hR⟩ := hf a ha
  exact ⟨f a, hvalid, hR, by rw [hexec, unaryCommand_next hA hC f hs ha h1 hd]⟩

theorem binary_of (hA : HasForm ta A) (hB : HasForm tb B) (hC : HasForm td C)
    {mk : CellIdx → CellIdx → CellIdx → Instr} {R : α → β → γ → Prop} (f : α → β → γ)
    (hexec : ∀ rd ra rb s, exec (mk rd ra rb) s = binaryCommand ta tb td f rd ra rb s)
    (hf : ∀ a b, A.valid a → B.valid b → C.valid (f a b) ∧ R a b (f a b)) : Binary A B C mk R :=
  fun s rd ra rb a b hs ha hb h1 h2 hd => by
    obtain ⟨hvalid, hR⟩ := hf a b ha hb
    exact ⟨f a b, hvalid, hR, by rw [hexec, binaryCommand_next hA hB hC f hs ha hb h1 h2 hd]⟩

theorem partialUnary_of (hA : HasForm ta A) (hC : HasForm td C) {mk : CellIdx → CellIdx → Instr}
    {R : α → Option γ → Prop} (f : α → Option γ)
    (hexec : ∀ rd ra s, exec (mk rd ra) s = partialUnaryCommand ta td f rd ra s)
    (hf : ∀ a, A.valid a → (∀ c, f a = some c → C.valid c) ∧ R a (f a)) : PartialUnary A C mk R :=
  fun s rd ra a hs ha h1 hd => by
    obtain ⟨hvalid, hR⟩ := hf a ha
    exact ⟨f a, hvalid, hR, by rw [hexec, partialUnaryCommand_next hA hC f hs ha h1 hd]⟩

theorem partialBinary_of (hA : HasForm ta A) (hB : HasForm tb B) (hC : HasForm td C)
    {mk : CellIdx → CellIdx → CellIdx → Instr} {R : α → β → Option γ → Prop} (f : α → β → Option γ)
    (hexec : ∀ rd ra rb s, exec (mk rd ra rb) s = partialBinaryCommand ta tb td f rd ra rb s)
    (hf : ∀ a b, A.valid a → B.valid b → (∀ c, f a b = some c → C.valid c) ∧ R a b (f a b)) :
    PartialBinary A B C mk R := fun s rd ra rb a b hs ha hb h1 h2 hd => by
  obtain ⟨hvalid, hR⟩ := hf a b ha hb
  exact ⟨f a b, hvalid, hR, by rw [hexec, partialBinaryCommand_next hA hB hC f hs ha hb h1 h2 hd]⟩

theorem test_of (hA : HasForm ta A) {mk : CellIdx → Instr} {P : α → Prop} (f : α → Bool)
    (hexec : ∀ ra s, exec (mk ra) s = testCommand ta f ra s) (hf : ∀ a, f a = true ↔ P a) : Test A mk P :=
  fun s ra a hs ha h1 => ⟨f a, hf a, by rw [hexec, testCommand_next hA f hs ha h1]⟩

theorem compare_of (hA : HasForm ta A) {mk : CellIdx → CellIdx → Instr} {P : α → α → Prop} (f : α → α → Bool)
    (hexec : ∀ ra rb s, exec (mk ra rb) s = compareCommand ta ta f ra rb s)
    (hf : ∀ a b, A.valid a → A.valid b → (f a b = true ↔ P a b)) : Compare A mk P :=
  fun s ra rb a b hs ha hb h1 h2 =>
    ⟨f a b, hf a b ha hb, by rw [hexec, compareCommand_next hA hA f hs ha hb h1 h2]⟩

theorem vectors_of (hA : HasForm ta A) {mk : CellIdx → CellIdx → CellIdx → Imm → Instr}
    {R : List α → List α → α → Prop} (zero : α) (add mul : α → α → α)
    (hexec : ∀ rd ra rb n s, exec (mk rd ra rb n) s = sopCommand ta zero add mul rd ra rb n s)
    (hvalid : ∀ as bs, A.valid (sumOfProducts zero add mul as bs))
    (hR : ∀ as bs, R as bs (sumOfProducts zero add mul as bs)) : Vectors A mk R :=
  fun s rd ra rb n as bs hs ha hb hva hvb h1 h2 hd =>
    ⟨_, hvalid as bs, hR as bs, by rw [hexec, sopCommand_next hA zero add mul hs ha hb hva hvb h1 h2 hd]⟩

end

/-! ### System commands (49_host_and_control.md) -/

/-- A cell lies in the store. -/
theorem fits_one (i : CellIdx) : fits i 1 := i.isLt

/-- `mov` of a held run copies it. -/
theorem mov_next {s : State} {rd ra : CellIdx} {n : Imm} {vs : List Nat} (hs : s.flt = false)
    (hn : vs.length = n.toNat) (hh : holds s ra vs) (hd : fits rd n.toNat) :
    exec (.mov rd ra n) s = .next (s.write rd.toNat vs) := by
  rw [← raw_flatMap vs] at hh
  have hchecks := vector_checks rawElem_form (fun _ _ => trivial) hh
  have hload := loadVector_held rawElem_form hh
  rw [hn] at hchecks hload
  have hdest : rd.toNat + n.toNat * elemWidth rawElem ≤ 256 := by rw [show elemWidth rawElem = 1 from rfl, mul_one]; exact hd
  have hpass : violation [vectorSource rawElem ra n.toNat] [vectorDest rawElem rd n.toNat] s.cells = none :=
    violation_eq_none_iff.mpr ⟨List.forall_mem_singleton.mpr hchecks, List.forall_mem_singleton.mpr hdest⟩
  show execMov rd ra n s = _
  rw [execMov, command_run hs hpass, hload]

/-- Settles O25: `nop` and `ldi` check no source, and `mov` reads its run before it writes. -/
theorem nopLdiMovResults : Obligations.NopLdiMovResults := by
  refine ⟨fun s hs => command_run (srcs := []) (dsts := []) hs rfl, fun s rd imm hs => ?_, fun s rd ra n vs hs hn hh hd => ?_⟩
  · exact constCommand_next rawElem_form hs (fits_one rd) imm.toNat
  · exact ⟨_, mov_next hs hn hh hd, rfl, fun j v hj => readCell_writeCells_inside s.cells rd.toNat vs hj⟩

/-- The integer of a payload as the sum of its limbs (20_memory.md R33). -/
theorem payloadValue_eq_sum (ls : List Limb) :
    payloadValue ls = ∑ j ∈ Finset.range ls.length, (ls.getD j 0).toNat * 2 ^ (64 * j) := by
  induction ls with
  | nil => rfl
  | cons l ls ih =>
    have hshift (j : Nat) : (ls.getD j 0).toNat * 2 ^ (64 * (j + 1)) = 2 ^ 64 * ((ls.getD j 0).toNat * 2 ^ (64 * j)) := by
      rw [Nat.mul_succ, pow_add]
      ring
    simp only [payloadValue, List.length_cons, Finset.sum_range_succ', List.getD_cons_succ, List.getD_cons_zero, hshift,
      ← Finset.mul_sum, ← ih, mul_zero, pow_zero, mul_one]
    exact add_comm _ _

theorem length_limbsOf (n v : Nat) : (limbsOf n v).length = n := by
  induction n generalizing v with
  | zero => rfl
  | succ n ih => rw [limbsOf, List.length_cons, ih]

/-- Limb `j` of an integer (20_memory.md R34). -/
theorem limbsOf_getElem? {n v j : Nat} {l : Limb} (h : (limbsOf n v)[j]? = some l) :
    l.toNat = v / 2 ^ (64 * j) % 2 ^ 64 := by
  induction n generalizing v j with
  | zero => simp [limbsOf] at h
  | succ n ih =>
    cases j with
    | zero =>
      simp only [limbsOf, List.getElem?_cons_zero, Option.some.injEq] at h
      subst h
      simp
    | succ j =>
      rw [limbsOf, List.getElem?_cons_succ] at h
      rw [ih h, Nat.div_div_eq_div_mul, Nat.mul_succ, Nat.add_comm, pow_add]

/-- Settles O26: the payload as a sum of limbs, and an integer cut into limbs. -/
theorem ldStResults : Obligations.LdStResults := by
  refine ⟨fun s rd hs hlen => ⟨payloadValue s.payload, ?_, ?_, ?_⟩, fun s ra v hs hh => ?_⟩
  · rw [payloadValue_eq_sum, hlen]
  · rw [Config.params_wellFormed.width_eq, ← hlen]
    exact payloadValue_lt s.payload
  · have hpass : violation [] [elemDest rawElem rd] s.cells = none :=
      violation_eq_none_iff.mpr ⟨nofun, List.forall_mem_singleton.mpr (fits_one rd)⟩
    show execLd rd s = _
    rw [execLd, ldCommand, command_run hs hpass, if_pos hlen, storeElem_eq rawElem_form]
    rfl
  · have hheld : holds s ra (rawForm.cells v) := hh
    have hpass : violation [elemSource rawElem ra] [] s.cells = none :=
      violation_eq_none_iff.mpr ⟨List.forall_mem_singleton.mpr (elem_checks rawElem_form trivial hheld), nofun⟩
    refine ⟨limbsOf Config.params.limbs v, length_limbsOf _ v, fun j l => limbsOf_getElem?, ?_⟩
    show execSt ra s = _
    rw [execSt, stCommand, command_run hs hpass, loadElem_held rawElem_form hheld]

/-! ### Constants and predicates -/

/-- Settles O27: each constant is the argument of its command. -/
theorem constantResults : Obligations.ConstantResults :=
  ⟨constant_of (primeElem_form Config.params.q) 0 fun _ _ => rfl,
    constant_of (primeElem_form Config.params.r) 0 fun _ _ => rfl,
    constant_of (primeElem_form Config.params.q) 1 fun _ _ => rfl,
    constant_of (primeElem_form Config.params.r) 1 fun _ _ => rfl,
    constant_of rawElem_form _ fun _ _ => rfl, constant_of rawElem_form _ fun _ _ => rfl,
    constant_of fq2Elem_form _ fun _ _ => rfl, constant_of fq2Elem_form _ fun _ _ => rfl,
    constant_of fq6Elem_form _ fun _ _ => rfl, constant_of fq6Elem_form _ fun _ _ => rfl,
    constant_of fq12Elem_form _ fun _ _ => rfl, constant_of fq12Elem_form _ fun _ _ => rfl,
    constant_of jacElem_form _ fun _ _ => rfl, constant_of affElem_form _ fun _ _ => rfl,
    constant_of rawElem_form _ fun _ _ => rfl⟩

/-- An element of `Fq2` is known by its cells, and so for the other fields of the tower. -/
theorem fq2Form_cells_inj (a b : Fq2) : fq2Form.cells a = fq2Form.cells b ↔ a = b := by
  obtain ⟨a0, a1⟩ := a
  obtain ⟨b0, b1⟩ := b
  simp [fq2Form]

theorem fq6Form_cells_inj (a b : Fq6) : fq6Form.cells a = fq6Form.cells b ↔ a = b := by
  obtain ⟨⟨a0, a1⟩, ⟨a2, a3⟩, ⟨a4, a5⟩⟩ := a
  obtain ⟨⟨b0, b1⟩, ⟨b2, b3⟩, ⟨b4, b5⟩⟩ := b
  simp [fq6Form, and_assoc]

theorem fq12Form_cells_inj (a b : Fq12) : fq12Form.cells a = fq12Form.cells b ↔ a = b := by
  obtain ⟨⟨⟨a0, a1⟩, ⟨a2, a3⟩, ⟨a4, a5⟩⟩, ⟨⟨a6, a7⟩, ⟨a8, a9⟩, ⟨a10, a11⟩⟩⟩ := a
  obtain ⟨⟨⟨b0, b1⟩, ⟨b2, b3⟩, ⟨b4, b5⟩⟩, ⟨⟨b6, b7⟩, ⟨b8, b9⟩, ⟨b10, b11⟩⟩⟩ := b
  simp [fq12Form, and_assoc]

theorem fq2_eq_zero_iff (a : Fq2) : a = fq2Zero ↔ ∀ c ∈ fq2Form.cells a, c = 0 := by
  rw [← fq2Form_cells_inj]
  simp [fq2Form, fq2Zero]

theorem fq6_eq_zero_iff (a : Fq6) : a = fq6Zero ↔ ∀ c ∈ fq6Form.cells a, c = 0 := by
  rw [← fq6Form_cells_inj]
  simp [fq6Form, fq6Zero, fq2Zero]

theorem fq12_eq_zero_iff (a : Fq12) : a = fq12Zero ↔ ∀ c ∈ fq12Form.cells a, c = 0 := by
  rw [← fq12Form_cells_inj]
  simp [fq12Form, fq12Zero, fq6Zero, fq2Zero]

/-- Settles O28: each predicate decides an equality of elements, and an element is known by its cells. -/
theorem zeroOneEqTests : Obligations.ZeroOneEqTests :=
  ⟨test_of (primeElem_form _) (fun a => decide (a = 0)) (fun _ _ => rfl) fun _ => decide_eq_true_iff,
    test_of (primeElem_form _) (fun a => decide (a = 0)) (fun _ _ => rfl) fun _ => decide_eq_true_iff,
    test_of (primeElem_form _) (fun a => decide (a = 1)) (fun _ _ => rfl) fun _ => decide_eq_true_iff,
    test_of (primeElem_form _) (fun a => decide (a = 1)) (fun _ _ => rfl) fun _ => decide_eq_true_iff,
    test_of fq2Elem_form (fun a => decide (a = fq2Zero)) (fun _ _ => rfl) fun a =>
      decide_eq_true_iff.trans (fq2_eq_zero_iff a),
    test_of fq6Elem_form (fun a => decide (a = fq6Zero)) (fun _ _ => rfl) fun a =>
      decide_eq_true_iff.trans (fq6_eq_zero_iff a),
    test_of fq12Elem_form (fun a => decide (a = fq12Zero)) (fun _ _ => rfl) fun a =>
      decide_eq_true_iff.trans (fq12_eq_zero_iff a),
    test_of fq2Elem_form (fun a => decide (a = fq2One)) (fun _ _ => rfl) fun a =>
      decide_eq_true_iff.trans (fq2Form_cells_inj a fq2One).symm,
    test_of fq6Elem_form (fun a => decide (a = fq6One)) (fun _ _ => rfl) fun a =>
      decide_eq_true_iff.trans (fq6Form_cells_inj a fq6One).symm,
    test_of fq12Elem_form (fun a => decide (a = fq12One)) (fun _ _ => rfl) fun a =>
      decide_eq_true_iff.trans (fq12Form_cells_inj a fq12One).symm,
    compare_of (primeElem_form _) (fun a b => decide (a = b)) (fun _ _ _ => rfl) fun _ _ _ _ => decide_eq_true_iff,
    compare_of (primeElem_form _) (fun a b => decide (a = b)) (fun _ _ _ => rfl) fun _ _ _ _ => decide_eq_true_iff,
    compare_of fq2Elem_form (fun a b => decide (a = b)) (fun _ _ _ => rfl) fun a b _ _ =>
      decide_eq_true_iff.trans (fq2Form_cells_inj a b).symm,
    compare_of fq6Elem_form (fun a b => decide (a = b)) (fun _ _ _ => rfl) fun a b _ _ =>
      decide_eq_true_iff.trans (fq6Form_cells_inj a b).symm,
    compare_of fq12Elem_form (fun a b => decide (a = b)) (fun _ _ _ => rfl) fun a b _ _ =>
      decide_eq_true_iff.trans (fq12Form_cells_inj a b).symm⟩

/-! ### The adder (41_prime_field.md 3, 42_extension_tower.md) -/

section
variable {m : Nat}

/-- The modulus is 0 in its field. -/
theorem modulus_cast_self (m : Nat) : (m : ZMod m) = 0 := ZMod.natCast_self m

theorem cast_addMod_self (a b : Nat) : ((addMod m a b : Nat) : ZMod m) = a + b := cast_addMod (modulus_cast_self m) a b
theorem cast_mulMod_self (a b : Nat) : ((mulMod m a b : Nat) : ZMod m) = a * b := cast_mulMod (modulus_cast_self m) a b
theorem cast_sqrMod_self (a : Nat) : ((sqrMod m a : Nat) : ZMod m) = (a : ZMod m) ^ 2 :=
  cast_sqrMod (modulus_cast_self m) a
theorem cast_dblMod_self (a : Nat) : ((dblMod m a : Nat) : ZMod m) = 2 * a := cast_dblMod (modulus_cast_self m) a
theorem cast_powMod_self (a e : Nat) : ((powMod m a e : Nat) : ZMod m) = (a : ZMod m) ^ e :=
  cast_powMod (modulus_cast_self m) a e
theorem cast_subMod_self (a : Nat) {b : Nat} (hb : b < m) : ((subMod m a b : Nat) : ZMod m) = a - b :=
  cast_subMod (modulus_cast_self m) a hb
theorem cast_negMod_self {a : Nat} (ha : a < m) : ((negMod m a : Nat) : ZMod m) = -a :=
  cast_negMod (modulus_cast_self m) ha

theorem negMod_zero (m : Nat) : negMod m 0 = 0 := by rw [negMod, Nat.sub_zero, Nat.mod_self]

end

open Config in
/-- Settles O29: the machine's sum and difference are those of the ring, and reduced. -/
theorem addSubResults : Obligations.AddSubResults :=
  ⟨binary_of (primeElem_form _) (primeElem_form _) (primeElem_form _) (addMod _) (fun _ _ _ _ => rfl)
      fun a b _ _ => ⟨addMod_lt q_pos a b, cast_addMod_self a b⟩,
    binary_of (primeElem_form _) (primeElem_form _) (primeElem_form _) (addMod _) (fun _ _ _ _ => rfl)
      fun a b _ _ => ⟨addMod_lt r_pos a b, cast_addMod_self a b⟩,
    binary_of fq2Elem_form fq2Elem_form fq2Elem_form (fq2Add params) (fun _ _ _ _ => rfl)
      fun a b _ _ => ⟨fq2Add_reduced one_lt_q a b, fun _ _ _ _ _ h => eval_fq2Add h a b⟩,
    binary_of fq6Elem_form fq6Elem_form fq6Elem_form (fq6Add params) (fun _ _ _ _ => rfl)
      fun a b _ _ => ⟨fq6Add_reduced one_lt_q a b, fun _ _ _ _ _ h => eval_fq6Add h a b⟩,
    binary_of fq12Elem_form fq12Elem_form fq12Elem_form (fq12Add params) (fun _ _ _ _ => rfl)
      fun a b _ _ => ⟨fq12Add_reduced one_lt_q a b, fun _ _ _ _ _ h => eval_fq12Add h a b⟩,
    binary_of (primeElem_form _) (primeElem_form _) (primeElem_form _) (subMod _) (fun _ _ _ _ => rfl)
      fun a b _ hb => ⟨subMod_lt q_pos a b, cast_subMod_self a hb⟩,
    binary_of (primeElem_form _) (primeElem_form _) (primeElem_form _) (subMod _) (fun _ _ _ _ => rfl)
      fun a b _ hb => ⟨subMod_lt r_pos a b, cast_subMod_self a hb⟩,
    binary_of fq2Elem_form fq2Elem_form fq2Elem_form (fq2Sub params) (fun _ _ _ _ => rfl)
      fun a b _ hb => ⟨fq2Sub_reduced one_lt_q a b, fun _ _ _ _ _ h => eval_fq2Sub h a hb⟩,
    binary_of fq6Elem_form fq6Elem_form fq6Elem_form (fq6Sub params) (fun _ _ _ _ => rfl)
      fun a b _ hb => ⟨fq6Sub_reduced one_lt_q a b, fun _ _ _ _ _ h => eval_fq6Sub h a hb⟩,
    binary_of fq12Elem_form fq12Elem_form fq12Elem_form (fq12Sub params) (fun _ _ _ _ => rfl)
      fun a b _ hb => ⟨fq12Sub_reduced one_lt_q a b, fun _ _ _ _ _ h => eval_fq12Sub h a hb⟩⟩

open Config in
/-- Settles O30: the machine's negative and double are those of the ring, and reduced. -/
theorem negDblResults : Obligations.NegDblResults :=
  ⟨unary_of (primeElem_form _) (primeElem_form _) (negMod _) (fun _ _ _ => rfl)
      fun a ha => ⟨negMod_lt q_pos a, cast_negMod_self ha, fun h0 => by rw [h0, negMod_zero]⟩,
    unary_of (primeElem_form _) (primeElem_form _) (negMod _) (fun _ _ _ => rfl)
      fun a ha => ⟨negMod_lt r_pos a, cast_negMod_self ha, fun h0 => by rw [h0, negMod_zero]⟩,
    unary_of fq2Elem_form fq2Elem_form (fq2Neg params) (fun _ _ _ => rfl)
      fun a ha => ⟨fq2Neg_reduced one_lt_q a, fun _ _ _ _ _ h => eval_fq2Neg h ha⟩,
    unary_of fq6Elem_form fq6Elem_form (fq6Neg params) (fun _ _ _ => rfl)
      fun a ha => ⟨fq6Neg_reduced one_lt_q a, fun _ _ _ _ _ h => eval_fq6Neg h ha⟩,
    unary_of fq12Elem_form fq12Elem_form (fq12Neg params) (fun _ _ _ => rfl)
      fun a ha => ⟨fq12Neg_reduced one_lt_q a, fun _ _ _ _ _ h => eval_fq12Neg h ha⟩,
    unary_of (primeElem_form _) (primeElem_form _) (dblMod _) (fun _ _ _ => rfl)
      fun a _ => ⟨dblMod_lt q_pos a, cast_dblMod_self a⟩,
    unary_of (primeElem_form _) (primeElem_form _) (dblMod _) (fun _ _ _ => rfl)
      fun a _ => ⟨dblMod_lt r_pos a, cast_dblMod_self a⟩,
    unary_of fq2Elem_form fq2Elem_form (fq2Dbl params) (fun _ _ _ => rfl)
      fun a _ => ⟨fq2Dbl_reduced one_lt_q a, fun _ _ _ _ _ h => eval_fq2Dbl h a⟩,
    unary_of fq6Elem_form fq6Elem_form (fq6Dbl params) (fun _ _ _ => rfl)
      fun a _ => ⟨fq6Dbl_reduced one_lt_q a, fun _ _ _ _ _ h => eval_fq6Dbl h a⟩,
    unary_of fq12Elem_form fq12Elem_form (fq12Dbl params) (fun _ _ _ => rfl)
      fun a _ => ⟨fq12Dbl_reduced one_lt_q a, fun _ _ _ _ _ h => eval_fq12Dbl h a⟩⟩

/-! ### The multiplier (41_prime_field.md 4, 42_extension_tower.md, 43_frobenius_sparse_cyclotomic.md) -/

open Config in
/-- Settles O31: the machine's product, square and remainder are those of the prime field, and reduced. -/
theorem primeProductResults : Obligations.PrimeProductResults :=
  ⟨binary_of (primeElem_form _) (primeElem_form _) (primeElem_form _) (mulMod _) (fun _ _ _ _ => rfl)
      fun a b _ _ => ⟨mulMod_lt q_pos a b, cast_mulMod_self a b⟩,
    binary_of (primeElem_form _) (primeElem_form _) (primeElem_form _) (mulMod _) (fun _ _ _ _ => rfl)
      fun a b _ _ => ⟨mulMod_lt r_pos a b, cast_mulMod_self a b⟩,
    unary_of (primeElem_form _) (primeElem_form _) (sqrMod _) (fun _ _ _ => rfl)
      fun a _ => ⟨sqrMod_lt q_pos a, cast_sqrMod_self a⟩,
    unary_of (primeElem_form _) (primeElem_form _) (sqrMod _) (fun _ _ _ => rfl)
      fun a _ => ⟨sqrMod_lt r_pos a, cast_sqrMod_self a⟩,
    unary_of (primeElem_form _) (primeElem_form _) (fqMulNonres params) (fun _ _ _ => rfl)
      fun a _ => ⟨mulMod_lt q_pos _ a, cast_mulMod_self _ a⟩,
    unary_of rawElem_form (primeElem_form _) (fun v => v % params.q) (fun _ _ _ => rfl)
      fun a _ => ⟨Nat.mod_lt a q_pos, ZMod.natCast_mod a _⟩,
    unary_of rawElem_form (primeElem_form _) (fun v => v % params.r) (fun _ _ _ => rfl)
      fun a _ => ⟨Nat.mod_lt a r_pos, ZMod.natCast_mod a _⟩⟩

section
variable {R : Type} [CommRing R] {u v w : R} (h : TowerRoots R u v w)
include h

theorem eval_fq6Sqr (a : Fq6) : evalFq6 u v (fq6Sqr Config.params a) = evalFq6 u v a ^ 2 := by
  rw [fq6Sqr, eval_fq6Mul h, sq]

theorem eval_fq12Sqr (a : Fq12) : evalFq12 u v w (fq12Sqr Config.params a) = evalFq12 u v w a ^ 2 := by
  rw [fq12Sqr, eval_fq12Mul h, sq]

theorem eval_fq2MulNonres (a : Fq2) : evalFq2 u (fq2MulNonres Config.params a) = v ^ 3 * evalFq2 u a := by
  rw [fq2MulNonres, eval_fq2Mul h, h.v_cube]

theorem eval_fq6MulNonres (a : Fq6) : evalFq6 u v (fq6MulNonres Config.params a) = w ^ 2 * evalFq6 u v a := by
  rw [fq6MulNonres, eval_fq6Mul h, h.w_sq]

theorem eval_fq6Mul_sparse01 (a : Fq6) (s0 s1 : Fq2) : evalFq6 u v (fq6Mul Config.params a (sparse01 s0 s1)) =
    evalFq6 u v a * (evalFq2 u s0 + evalFq2 u s1 * v) := by
  rw [eval_fq6Mul h, eval_sparse01]

theorem eval_fq12Mul_sparse014 (a : Fq12) (s0 s1 s4 : Fq2) :
    evalFq12 u v w (fq12Mul Config.params a (sparse014 s0 s1 s4)) =
      evalFq12 u v w a * (evalFq2 u s0 + evalFq2 u s1 * v + evalFq2 u s4 * v * w) := by
  rw [eval_fq12Mul h, eval_sparse014]

theorem eval_fq12Mul_sparse034 (a : Fq12) (s0 s3 s4 : Fq2) :
    evalFq12 u v w (fq12Mul Config.params a (sparse034 s0 s3 s4)) =
      evalFq12 u v w a * (evalFq2 u s0 + evalFq2 u s3 * w + evalFq2 u s4 * v * w) := by
  rw [eval_fq12Mul h, eval_sparse034]

end

open Config in
/-- Settles O32: the products of the rules are those of the ring, and reduced. -/
theorem towerProductResults : Obligations.TowerProductResults :=
  ⟨binary_of fq2Elem_form fq2Elem_form fq2Elem_form (fq2Mul params) (fun _ _ _ _ => rfl)
      fun a b _ _ => ⟨fq2Mul_reduced one_lt_q a b, fun _ _ _ _ _ h => eval_fq2Mul h a b⟩,
    binary_of fq6Elem_form fq6Elem_form fq6Elem_form (fq6Mul params) (fun _ _ _ _ => rfl)
      fun a b _ _ => ⟨fq6Mul_reduced one_lt_q a b, fun _ _ _ _ _ h => eval_fq6Mul h a b⟩,
    binary_of fq12Elem_form fq12Elem_form fq12Elem_form (fq12Mul params) (fun _ _ _ _ => rfl)
      fun a b _ _ => ⟨fq12Mul_reduced one_lt_q a b, fun _ _ _ _ _ h => eval_fq12Mul h a b⟩,
    unary_of fq2Elem_form fq2Elem_form (fq2Sqr params) (fun _ _ _ => rfl)
      fun a _ => ⟨fq2Sqr_reduced one_lt_q a, fun _ _ _ _ _ h => eval_fq2Sqr h a⟩,
    unary_of fq6Elem_form fq6Elem_form (fq6Sqr params) (fun _ _ _ => rfl)
      fun a _ => ⟨fq6Mul_reduced one_lt_q a a, fun _ _ _ _ _ h => eval_fq6Sqr h a⟩,
    unary_of fq12Elem_form fq12Elem_form (fq12Sqr params) (fun _ _ _ => rfl)
      fun a _ => ⟨fq12Mul_reduced one_lt_q a a, fun _ _ _ _ _ h => eval_fq12Sqr h a⟩,
    unary_of fq2Elem_form fq2Elem_form (fq2MulNonres params) (fun _ _ _ => rfl)
      fun a _ => ⟨fq2Mul_reduced one_lt_q _ a, fun _ _ _ _ _ h => eval_fq2MulNonres h a⟩,
    unary_of fq6Elem_form fq6Elem_form (fq6MulNonres params) (fun _ _ _ => rfl)
      fun a _ => ⟨fq6Mul_reduced one_lt_q _ a, fun _ _ _ _ _ h => eval_fq6MulNonres h a⟩⟩

open Config in
/-- Settles O33: the full product, and the value of each sparse operand. -/
theorem sparseProductResults : Obligations.SparseProductResults :=
  ⟨binary_of fq6Elem_form sparsePairElem_form fq6Elem_form (fun a t => fq6Mul params a (sparse01 t.1 t.2))
      (fun _ _ _ _ => rfl) fun a t _ _ => ⟨fq6Mul_reduced one_lt_q a _, fun _ _ _ _ _ h => eval_fq6Mul_sparse01 h a t.1 t.2⟩,
    binary_of fq12Elem_form sparseTripleElem_form fq12Elem_form
      (fun a t => fq12Mul params a (sparse014 t.1 t.2.1 t.2.2)) (fun _ _ _ _ => rfl)
      fun a t _ _ => ⟨fq12Mul_reduced one_lt_q a _, fun _ _ _ _ _ h => eval_fq12Mul_sparse014 h a t.1 t.2.1 t.2.2⟩,
    binary_of fq12Elem_form sparseTripleElem_form fq12Elem_form
      (fun a t => fq12Mul params a (sparse034 t.1 t.2.1 t.2.2)) (fun _ _ _ _ => rfl)
      fun a t _ _ => ⟨fq12Mul_reduced one_lt_q a _, fun _ _ _ _ _ h => eval_fq12Mul_sparse034 h a t.1 t.2.1 t.2.2⟩⟩

open Config in
/-- Settles O34: square-and-multiply is the power of the ring. -/
theorem powerResults : Obligations.PowerResults :=
  ⟨binary_of (primeElem_form _) rawElem_form (primeElem_form _) (powMod _) (fun _ _ _ _ => rfl)
      fun a e _ _ => ⟨powMod_lt one_lt_q a e, cast_powMod_self a e⟩,
    binary_of (primeElem_form _) rawElem_form (primeElem_form _) (powMod _) (fun _ _ _ _ => rfl)
      fun a e _ _ => ⟨powMod_lt one_lt_r a e, cast_powMod_self a e⟩,
    binary_of fq2Elem_form rawElem_form fq2Elem_form (fq2Pow params) (fun _ _ _ _ => rfl)
      fun a e _ _ => ⟨fq2Pow_reduced one_lt_q a e, fun _ _ _ _ _ h => eval_fq2Pow h a e⟩,
    binary_of fq6Elem_form rawElem_form fq6Elem_form (fq6Pow params) (fun _ _ _ _ => rfl)
      fun a e _ _ => ⟨fq6Pow_reduced one_lt_q a e, fun _ _ _ _ _ h => eval_fq6Pow h a e⟩,
    binary_of fq12Elem_form rawElem_form fq12Elem_form (fq12Pow params) (fun _ _ _ _ => rfl)
      fun a e _ _ => ⟨fq12Pow_reduced one_lt_q a e, fun _ _ _ _ _ h => eval_fq12Pow h a e⟩⟩

/-- The sum of products of a prime field. -/
theorem cast_sumOfProducts (m : Nat) (as bs : List Nat) :
    ((sumOfProducts 0 (addMod m) (mulMod m) as bs : Nat) : ZMod m) =
      (List.zipWith (fun a b : Nat => (a : ZMod m) * b) as bs).sum :=
  map_sumOfProducts (Nat.cast : Nat → ZMod m) Nat.cast_zero cast_addMod_self cast_mulMod_self as bs

open Config in
/-- Settles O35: the fold over the products is their sum in the ring. -/
theorem sumOfProductsResults : Obligations.SumOfProductsResults :=
  ⟨vectors_of (primeElem_form _) 0 (addMod _) (mulMod _) (fun _ _ _ _ _ => rfl)
      (sumOfProducts_induction (· < params.q) q_pos (addMod_lt q_pos)) (cast_sumOfProducts _),
    vectors_of (primeElem_form _) 0 (addMod _) (mulMod _) (fun _ _ _ _ _ => rfl)
      (sumOfProducts_induction (· < params.r) r_pos (addMod_lt r_pos)) (cast_sumOfProducts _),
    vectors_of fq2Elem_form fq2Zero (fq2Add params) (fq2Mul params) (fun _ _ _ _ _ => rfl)
      (sumOfProducts_induction (Fq2.Reduced params.q) (fq2Zero_reduced one_lt_q) (fq2Add_reduced one_lt_q))
      fun as bs _ _ u _ _ h => map_sumOfProducts (evalFq2 u) eval_fq2Zero (eval_fq2Add h) (eval_fq2Mul h) as bs,
    vectors_of fq6Elem_form fq6Zero (fq6Add params) (fq6Mul params) (fun _ _ _ _ _ => rfl)
      (sumOfProducts_induction (Fq6.Reduced params.q) (fq6Zero_reduced one_lt_q) (fq6Add_reduced one_lt_q))
      fun as bs _ _ u v _ h => map_sumOfProducts (evalFq6 u v) eval_fq6Zero (eval_fq6Add h) (eval_fq6Mul h) as bs,
    vectors_of fq12Elem_form fq12Zero (fq12Add params) (fq12Mul params) (fun _ _ _ _ _ => rfl)
      (sumOfProducts_induction (Fq12.Reduced params.q) (fq12Zero_reduced one_lt_q) (fq12Add_reduced one_lt_q))
      fun as bs _ _ u v w h =>
        map_sumOfProducts (evalFq12 u v w) eval_fq12Zero (eval_fq12Add h) (eval_fq12Mul h) as bs⟩

/-! ### The inverse and the Legendre symbol of a prime field (41_prime_field.md R113, R118) -/

section
variable {m : Nat}

theorem invMod_eq_none_iff (m a : Nat) : invMod m a = none ↔ a = 0 := by simp [invMod]

/-- The machine's inverse, where there is one. -/
theorem cast_mul_invMod (hm : m.Prime) {a b : Nat} (ha : a < m) (h : invMod m a = some b) :
    (a : ZMod m) * b = 1 := by
  have h0 : a ≠ 0 := fun h0 => by rw [(invMod_eq_none_iff m a).mpr h0] at h; cases h
  have hinv := cast_invMod_mul hm h0 ha
  rwa [h, Option.getD_some, mul_comm] at hinv

/-- An inverse is not 0. -/
theorem invMod_pos (hm : m.Prime) {a b : Nat} (ha : a < m) (h : invMod m a = some b) : 0 < b := by
  have : Fact m.Prime := ⟨hm⟩
  rcases Nat.eq_zero_or_pos b with rfl | hb
  · simpa using cast_mul_invMod hm ha h
  · exact hb

/-- The inverse command of a prime field (R113). -/
theorem invMod_spec (hm : m.Prime) {a : Nat} (ha : a < m) : (∀ b, invMod m a = some b → b < m) ∧
    (invMod m a = none ↔ a = 0) ∧ ∀ b ∈ invMod m a, 0 < b ∧ (a : ZMod m) * (b : Nat) = 1 :=
  ⟨fun _ => invMod_lt hm.one_lt, invMod_eq_none_iff m a, fun _ hb =>
    ⟨invMod_pos hm ha hb, cast_mul_invMod hm ha hb⟩⟩

/-- Settles O36: `a^(m−2)` is the inverse. -/
theorem primeInverseResults : Obligations.PrimeInverseResults :=
  ⟨partialUnary_of (primeElem_form _) (primeElem_form _) (invMod _) (fun _ _ _ => rfl)
      fun _ ha => invMod_spec Config.q_prime ha,
    partialUnary_of (primeElem_form _) (primeElem_form _) (invMod _) (fun _ _ _ => rfl)
      fun _ ha => invMod_spec Config.r_prime ha⟩

/-- A reduced number is `k` when it is so in the field. -/
theorem eq_iff_cast_eq {a k : Nat} (ha : a < m) (hk : k < m) : a = k ↔ (a : ZMod m) = k := by
  rw [ZMod.natCast_eq_natCast_iff, Nat.ModEq, Nat.mod_eq_of_lt ha, Nat.mod_eq_of_lt hk]

/-- The symbol is the class of `s = a^((m − 1)/2)`. -/
theorem legendre_eq_zero_iff (hm : 1 < m) (a : Nat) :
    legendre m a = .zero ↔ (a : ZMod m) ^ ((m - 1) / 2) = 0 := by
  have hs : powMod m a ((m - 1) / 2) = 0 ↔ _ := eq_iff_cast_eq (powMod_lt hm _ _) (by omega)
  rw [cast_powMod_self, Nat.cast_zero] at hs
  rw [← hs, legendre]
  split_ifs with h0 h1 <;> simp [h0]

theorem legendre_eq_residue_iff (hm : 1 < m) (a : Nat) :
    legendre m a = .residue ↔ (a : ZMod m) ^ ((m - 1) / 2) = 1 := by
  have hs : powMod m a ((m - 1) / 2) = 1 ↔ _ := eq_iff_cast_eq (powMod_lt hm _ _) hm
  rw [cast_powMod_self, Nat.cast_one] at hs
  rw [← hs, legendre]
  split_ifs with h0 h1
  · simp [h0]
  · simp [h1]
  · simp [h1]

variable (hm : m.Prime) (hodd : m % 2 = 1) {a : Nat} (ha : a < m)
include hm hodd ha

/-- Zero is the class of 0 alone. -/
theorem legendre_eq_zero_iff_eq_zero : legendre m a = .zero ↔ a = 0 := by
  have : Fact m.Prime := ⟨hm⟩
  have hexp : (m - 1) / 2 ≠ 0 := by have := hm.two_le; omega
  rw [legendre_eq_zero_iff hm.one_lt, pow_eq_zero_iff hexp]
  exact_mod_cast (eq_iff_cast_eq ha hm.pos).symm

/-- Euler's criterion. -/
theorem legendre_eq_residue_iff_isSquare : legendre m a = .residue ↔ a ≠ 0 ∧ IsSquare (a : ZMod m) := by
  have : Fact m.Prime := ⟨hm⟩
  rw [legendre_eq_residue_iff hm.one_lt, show (m - 1) / 2 = m / 2 by omega]
  by_cases h0 : a = 0
  · have hexp : m / 2 ≠ 0 := by have := hm.two_le; omega
    simp [h0, hexp]
  · simp [h0, ZMod.euler_criterion m (cast_ne_zero_of_lt h0 ha)]

/-- On a held operand `leg` writes the class, which has the properties of R118. -/
theorem legCommand_result {s : State} {ra : CellIdx} (hs : s.flt = false) (hh : holds s ra [a]) :
    ∃ c : Legendre, legCommand m ra s = .next (s.setL c) ∧
      (c = .zero ↔ (a : ZMod m) ^ ((m - 1) / 2) = 0) ∧ (c = .residue ↔ (a : ZMod m) ^ ((m - 1) / 2) = 1) ∧
      (c = .zero ↔ a = 0) ∧ (c = .residue ↔ a ≠ 0 ∧ IsSquare (a : ZMod m)) := by
  have hheld : holds s ra ((primeForm m).cells a) := hh
  have hpass : violation [elemSource (primeElem m) ra] [] s.cells = none :=
    violation_eq_none_iff.mpr ⟨List.forall_mem_singleton.mpr (elem_checks (primeElem_form m) ha hheld), nofun⟩
  refine ⟨legendre m a, ?_, legendre_eq_zero_iff hm.one_lt a, legendre_eq_residue_iff hm.one_lt a,
    legendre_eq_zero_iff_eq_zero hm hodd ha, legendre_eq_residue_iff_isSquare hm hodd ha⟩
  rw [legCommand, command_run hs hpass, loadElem_held (primeElem_form m) hheld]

end

/-- Settles O40, by Euler's criterion. -/
theorem legendreResults : Obligations.LegendreResults :=
  ⟨fun _ _ _ hs ha hh => legCommand_result Config.q_prime Config.params_wellFormed.fq.odd ha hs hh,
    fun _ _ _ hs ha hh => legCommand_result Config.r_prime Config.params_wellFormed.fr.odd ha hs hh⟩

end Sys2Proof.Machine
end

section
/-! The tower is a field (42_extension_tower.md R140, 00_scope.md R7 WF4), and what follows from that: elements are known by
their values, and the norms of the inverses are not zero. -/

namespace Sys2Proof.Machine

/-! ### One step of the tower -/

/-- Over a field, a prime root of an element that has none there generates a field in which every element has unique
coordinates in the powers of the root. -/
theorem exists_radical_extension {F : Type} [Field F] {n : Nat} (hn : n.Prime) (d : F) (hd : ∀ x : F, x ^ n ≠ d) :
    ∃ (K : Type) (_ : Field K) (φ : F →+* K) (r : K), r ^ n = φ d ∧
      ∀ x : K, ∃! c : Fin n → F, ∑ i, φ (c i) * r ^ (i : Nat) = x := by
  have hmonic : (Polynomial.X ^ n - Polynomial.C d).Monic := Polynomial.monic_X_pow_sub_C d hn.ne_zero
  have hdeg : (Polynomial.X ^ n - Polynomial.C d).natDegree = n := Polynomial.natDegree_X_pow_sub_C
  have hirr : Fact (Irreducible (Polynomial.X ^ n - Polynomial.C d)) :=
    ⟨(X_pow_sub_C_irreducible_iff_of_prime hn).mpr hd⟩
  let pb := AdjoinRoot.powerBasis' hmonic
  let b := pb.basis.reindex (finCongr (show pb.dim = n from hdeg))
  have hb (i : Fin n) : b i = AdjoinRoot.root (Polynomial.X ^ n - Polynomial.C d) ^ (i : Nat) := by
    simp [b, pb]
  have hsum (c : Fin n → F) : ∑ i, AdjoinRoot.of (Polynomial.X ^ n - Polynomial.C d) (c i) *
      AdjoinRoot.root (Polynomial.X ^ n - Polynomial.C d) ^ (i : Nat) = b.equivFun.symm c := by
    rw [Module.Basis.equivFun_symm_apply]
    exact Finset.sum_congr rfl fun i _ => by rw [hb, Algebra.smul_def]; rfl
  refine ⟨AdjoinRoot (Polynomial.X ^ n - Polynomial.C d), inferInstance, AdjoinRoot.of _, AdjoinRoot.root _, ?_,
    fun x => ⟨b.equivFun x, ?_, fun c hc => ?_⟩⟩
  · have hroot := AdjoinRoot.eval₂_root (Polynomial.X ^ n - Polynomial.C d)
    rw [Polynomial.eval₂_sub, Polynomial.eval₂_X_pow, Polynomial.eval₂_C] at hroot
    exact sub_eq_zero.mp hroot
  · simp only [hsum, LinearEquiv.symm_apply_apply]
  · have hvalue := (hsum c).symm.trans hc
    rw [← hvalue, LinearEquiv.apply_symm_apply]

/-! ### The three steps -/

/-- Every element of `K` is the value under `f` of exactly one element of `S`. -/
abbrev Represents {α K : Type} (S : Set α) (f : α → K) : Prop := Set.BijOn f S Set.univ

/-- A prime field is represented by the reduced numbers. -/
theorem represents_zmod {m : Nat} (hm : 0 < m) : Represents {a | a < m} (Nat.cast : Nat → ZMod m) := by
  have : NeZero m := ⟨hm.ne'⟩
  exact ⟨fun _ _ => trivial, fun a ha b hb hab => (eq_iff_cast_eq ha hb).mpr hab,
    fun x _ => ⟨x.val, x.val_lt, ZMod.natCast_zmod_val x⟩⟩

section
variable {R : Type} [CommRing R] {u v : R}

/-- The product of `Fq2` needs nothing of the steps above it. -/
theorem evalFq2_fq2Mul (hq : (Config.params.q : R) = 0) (hu : u ^ 2 = (Config.params.nonres2 : R)) (a b : Fq2) :
    evalFq2 u (fq2Mul Config.params a b) = evalFq2 u a * evalFq2 u b := by
  simp only [evalFq2, fq2Mul, cast_addMod hq, cast_mulMod hq]
  linear_combination (-(a.c1 : R) * b.c1) * hu

theorem evalFq2_fq2Add (hq : (Config.params.q : R) = 0) (a b : Fq2) :
    evalFq2 u (fq2Add Config.params a b) = evalFq2 u a + evalFq2 u b := by
  simp only [evalFq2, fq2Add, cast_addMod hq]
  ring

/-- The product of `Fq6` needs nothing of the step above it. -/
theorem evalFq6_fq6Mul (hq : (Config.params.q : R) = 0) (hu : u ^ 2 = (Config.params.nonres2 : R))
    (hv : v ^ 3 = evalFq2 u Config.params.nonres6) (a b : Fq6) :
    evalFq6 u v (fq6Mul Config.params a b) = evalFq6 u v a * evalFq6 u v b := by
  simp only [evalFq6, fq6Mul, evalFq2_fq2Add hq, evalFq2_fq2Mul hq hu, ← hv]
  ring

/-- A ring map takes the value of an element to its value. -/
theorem map_evalFq2 {S : Type} [CommRing S] (φ : R →+* S) (a : Fq2) : φ (evalFq2 u a) = evalFq2 (φ u) a := by
  simp only [evalFq2, map_add, map_mul, map_natCast]

theorem map_evalFq6 {S : Type} [CommRing S] (φ : R →+* S) (a : Fq6) : φ (evalFq6 u v a) = evalFq6 (φ u) (φ v) a := by
  simp only [evalFq6, map_add, map_mul, map_pow, map_evalFq2]

end

/-- Pairs represent a quadratic extension. -/
theorem represents_pair {F K α : Type} [Field F] [Field K] {S : Set α} {f : α → F} (hf : Represents S f)
    {φ : F →+* K} {r : K} (hK : ∀ x : K, ∃! c : Fin 2 → F, ∑ i, φ (c i) * r ^ (i : Nat) = x) :
    Represents (S ×ˢ S) fun a : α × α => φ (f a.1) + φ (f a.2) * r := by
  have hsum (c0 c1 : F) : ∑ i, φ (![c0, c1] i) * r ^ (i : Nat) = φ c0 + φ c1 * r := by simp [Fin.sum_univ_two]
  refine ⟨fun _ _ => trivial, fun a ha b hb hab => ?_, fun x _ => ?_⟩
  · have hc := (hK (φ (f a.1) + φ (f a.2) * r)).unique (hsum _ _) ((hsum _ _).trans hab.symm)
    exact Prod.ext (hf.injOn ha.1 hb.1 (congrFun hc 0)) (hf.injOn ha.2 hb.2 (congrFun hc 1))
  · obtain ⟨c, hc, -⟩ := hK x
    obtain ⟨a0, h0, e0⟩ := hf.surjOn (Set.mem_univ (c 0))
    obtain ⟨a1, h1, e1⟩ := hf.surjOn (Set.mem_univ (c 1))
    refine ⟨(a0, a1), ⟨h0, h1⟩, ?_⟩
    simpa [Fin.sum_univ_two, e0, e1] using hc

/-- Triples represent a cubic extension. -/
theorem represents_triple {F K α : Type} [Field F] [Field K] {S : Set α} {f : α → F} (hf : Represents S f)
    {φ : F →+* K} {r : K} (hK : ∀ x : K, ∃! c : Fin 3 → F, ∑ i, φ (c i) * r ^ (i : Nat) = x) :
    Represents (S ×ˢ S ×ˢ S) fun a : α × α × α => φ (f a.1) + φ (f a.2.1) * r + φ (f a.2.2) * r ^ 2 := by
  have hsum (c0 c1 c2 : F) : ∑ i, φ (![c0, c1, c2] i) * r ^ (i : Nat) = φ c0 + φ c1 * r + φ c2 * r ^ 2 := by
    simp [Fin.sum_univ_three]
  refine ⟨fun _ _ => trivial, fun a ha b hb hab => ?_, fun x _ => ?_⟩
  · have hc := (hK _).unique (hsum (f a.1) (f a.2.1) (f a.2.2)) ((hsum _ _ _).trans hab.symm)
    exact Prod.ext (hf.injOn ha.1 hb.1 (congrFun hc 0))
      (Prod.ext (hf.injOn ha.2.1 hb.2.1 (congrFun hc 1)) (hf.injOn ha.2.2 hb.2.2 (congrFun hc 2)))
  · obtain ⟨c, hc, -⟩ := hK x
    obtain ⟨a0, h0, e0⟩ := hf.surjOn (Set.mem_univ (c 0))
    obtain ⟨a1, h1, e1⟩ := hf.surjOn (Set.mem_univ (c 1))
    obtain ⟨a2, h2, e2⟩ := hf.surjOn (Set.mem_univ (c 2))
    refine ⟨(a0, a1, a2), ⟨h0, h1, h2⟩, ?_⟩
    simpa [Fin.sum_univ_three, e0, e1, e2] using hc

open Config in
/-- `Fq2`: `X² − β` has no root in `Fq` (R7 WF4). -/
theorem exists_fq2_field : ∃ (K : Type) (_ : Field K) (u : K), (params.q : K) = 0 ∧ u ^ 2 = (params.nonres2 : K) ∧
    Represents {a | Fq2.Reduced params.q a} (evalFq2 u) := by
  have hprime : Fact params.q.Prime := ⟨q_prime⟩
  have hroot (x : ZMod params.q) : x ^ 2 ≠ (params.nonres2 : ZMod params.q) := fun hx => by
    refine params_wellFormed.nonres2_nonSquare x.val x.val_lt ?_
    rw [eq_iff_cast_eq (mulMod_lt q_pos _ _) params_wellFormed.nonres2_lt, cast_mulMod_self, ZMod.natCast_zmod_val, ← sq, hx]
  obtain ⟨K, _, φ, u, hu, hK⟩ := exists_radical_extension Nat.prime_two _ hroot
  obtain ⟨-, hinj, hsurj⟩ := represents_pair (represents_zmod q_pos) hK
  refine ⟨K, inferInstance, u, ?_, by rw [hu, map_natCast], fun _ _ => trivial, fun a ha b hb hab => ?_, fun x _ => ?_⟩
  · rw [← map_natCast φ, modulus_cast_self, map_zero]
  · have hpair := hinj (x₁ := (a.c0, a.c1)) ha (x₂ := (b.c0, b.c1)) hb (by simpa only [map_natCast, evalFq2] using hab)
    rw [Prod.mk.injEq] at hpair
    exact congrArg₂ Fq2.mk hpair.1 hpair.2
  · obtain ⟨a, ha, hx⟩ := hsurj (Set.mem_univ x)
    exact ⟨⟨a.1, a.2⟩, ha, by simpa only [map_natCast, evalFq2] using hx⟩

open Config in
/-- `Fq6`: `X³ − ξ` has no root in `Fq2` (R7 WF4). -/
theorem exists_fq6_field : ∃ (K : Type) (_ : Field K) (u v : K), (params.q : K) = 0 ∧ u ^ 2 = (params.nonres2 : K) ∧
    v ^ 3 = evalFq2 u params.nonres6 ∧ Represents {a | Fq6.Reduced params.q a} (evalFq6 u v) := by
  obtain ⟨F, _, u, hq, hu, hF⟩ := exists_fq2_field
  have hroot (x : F) : x ^ 3 ≠ evalFq2 u params.nonres6 := fun hx => by
    obtain ⟨a, ha, rfl⟩ := hF.surjOn (Set.mem_univ x)
    refine params_wellFormed.nonres6_nonCube a ha
      (hF.injOn (fq2Mul_reduced one_lt_q _ _) params_wellFormed.nonres6_reduced ?_)
    rw [evalFq2_fq2Mul hq hu, evalFq2_fq2Mul hq hu, ← hx]
    ring
  obtain ⟨K, _, φ, v, hv, hK⟩ := exists_radical_extension Nat.prime_three _ hroot
  obtain ⟨-, hinj, hsurj⟩ := represents_triple hF hK
  refine ⟨K, inferInstance, φ u, v, ?_, ?_, by rw [hv, map_evalFq2], fun _ _ => trivial, fun a ha b hb hab => ?_,
    fun x _ => ?_⟩
  · rw [← map_natCast φ, hq, map_zero]
  · rw [← map_pow, hu, map_natCast]
  · have htriple := hinj (x₁ := (a.c0, a.c1, a.c2)) ha (x₂ := (b.c0, b.c1, b.c2)) hb
      (by simpa only [map_evalFq2, evalFq6] using hab)
    rw [Prod.mk.injEq, Prod.mk.injEq] at htriple
    obtain ⟨h0, h1, h2⟩ := htriple
    exact (Fq6.mk.injEq ..).mpr ⟨h0, h1, h2⟩
  · obtain ⟨a, ha, hx⟩ := hsurj (Set.mem_univ x)
    exact ⟨⟨a.1, a.2.1, a.2.2⟩, ha, by simpa only [map_evalFq2, evalFq6] using hx⟩

open Config in
/-- `Fq12`: `X² − γ` has no root in `Fq6` (R7 WF4). -/
theorem exists_tower_field : ∃ (K : Type) (_ : Field K) (u v w : K), TowerRoots K u v w ∧
    Represents {a | Fq12.Reduced params.q a} (evalFq12 u v w) := by
  obtain ⟨F, _, u, v, hq, hu, hv, hF⟩ := exists_fq6_field
  have hroot (x : F) : x ^ 2 ≠ evalFq6 u v params.nonres12 := fun hx => by
    obtain ⟨a, ha, rfl⟩ := hF.surjOn (Set.mem_univ x)
    refine params_wellFormed.nonres12_nonSquare a ha
      (hF.injOn (fq6Mul_reduced one_lt_q _ _) params_wellFormed.nonres12_reduced ?_)
    rw [evalFq6_fq6Mul hq hu hv, ← hx, sq]
  obtain ⟨K, _, φ, w, hw, hK⟩ := exists_radical_extension Nat.prime_two _ hroot
  obtain ⟨-, hinj, hsurj⟩ := represents_pair hF hK
  refine ⟨K, inferInstance, φ u, φ v, w, ⟨?_, ?_, ?_, by rw [hw, map_evalFq6]⟩, fun _ _ => trivial, fun a ha b hb hab => ?_,
    fun x _ => ?_⟩
  · rw [← map_natCast φ, hq, map_zero]
  · rw [← map_pow, hu, map_natCast]
  · rw [← map_pow, hv, map_evalFq2]
  · have hpair := hinj (x₁ := (a.c0, a.c1)) ha (x₂ := (b.c0, b.c1)) hb (by simpa only [map_evalFq6, evalFq12] using hab)
    rw [Prod.mk.injEq] at hpair
    exact congrArg₂ Fq12.mk hpair.1 hpair.2
  · obtain ⟨a, ha, hx⟩ := hsurj (Set.mem_univ x)
    exact ⟨⟨a.1, a.2⟩, ha, by simpa only [map_evalFq6, evalFq12] using hx⟩

/-- Settles O39, by the three steps of the tower. -/
theorem towerIsField : Obligations.TowerIsField := by
  obtain ⟨K, hK, u, v, w, hroots, -, hinj, hsurj⟩ := exists_tower_field
  refine ⟨K, hK, u, v, w, hroots, fun x => ?_⟩
  obtain ⟨a, ha, hx⟩ := hsurj (Set.mem_univ x)
  exact ⟨a, ⟨ha, hx⟩, fun b hb hbx => hinj hb ha (hbx.trans hx.symm)⟩

end Sys2Proof.Machine
end

section
/-! Inverses, quotients and the cyclotomic commands (42_extension_tower.md R153, R168, R183, 41_prime_field.md R114,
43_frobenius_sparse_cyclotomic.md R212 to R214): the norms of the inverses are not zero, because the tower is a field. -/

namespace Sys2Proof.Machine

open Config

/-! ### Elements are known by their values -/

/-- The tower in a field, in which a reduced element of each step is known by its value. -/
structure TowerField (K : Type) [Field K] (u v w : K) : Prop extends TowerRoots K u v w where
  fq2_inj : Set.InjOn (evalFq2 u) {a | a.Reduced params.q}
  fq6_inj : Set.InjOn (evalFq6 u v) {a | a.Reduced params.q}
  fq12_inj : Set.InjOn (evalFq12 u v w) {a | a.Reduced params.q}

theorem exists_towerField : ∃ (K : Type) (_ : Field K) (u v w : K), TowerField K u v w := by
  obtain ⟨K, _, u, v, w, hroots, -, hinj, -⟩ := exists_tower_field
  have hz2 := fq2Zero_reduced one_lt_q
  have hz6 := fq6Zero_reduced one_lt_q
  have h6 : Set.InjOn (evalFq6 u v) {a | a.Reduced params.q} := fun a ha b hb hab =>
    congrArg Fq12.c0 (hinj (x₁ := ⟨a, fq6Zero⟩) ⟨ha, hz6⟩ (x₂ := ⟨b, fq6Zero⟩) ⟨hb, hz6⟩
      (by simp only [evalFq12, hab]))
  have h2 : Set.InjOn (evalFq2 u) {a | a.Reduced params.q} := fun a ha b hb hab =>
    congrArg Fq6.c0 (h6 (x₁ := ⟨a, fq2Zero, fq2Zero⟩) ⟨ha, hz2, hz2⟩ (x₂ := ⟨b, fq2Zero, fq2Zero⟩) ⟨hb, hz2, hz2⟩
      (by simp only [evalFq6, hab]))
  exact ⟨K, inferInstance, u, v, w, ⟨hroots, h2, h6, hinj⟩⟩

/-- Reduced elements with the same value in every ring of the tower are equal. -/
theorem fq2_ext {a b : Fq2} (ha : a.Reduced params.q) (hb : b.Reduced params.q)
    (h : InTower fun _ _ u _ _ => evalFq2 u a = evalFq2 u b) : a = b := by
  obtain ⟨K, _, u, v, w, hK⟩ := exists_towerField
  exact hK.fq2_inj ha hb (h K u v w hK.toTowerRoots)

theorem fq6_ext {a b : Fq6} (ha : a.Reduced params.q) (hb : b.Reduced params.q)
    (h : InTower fun _ _ u v _ => evalFq6 u v a = evalFq6 u v b) : a = b := by
  obtain ⟨K, _, u, v, w, hK⟩ := exists_towerField
  exact hK.fq6_inj ha hb (h K u v w hK.toTowerRoots)

theorem fq12_ext {a b : Fq12} (ha : a.Reduced params.q) (hb : b.Reduced params.q)
    (h : InTower fun _ _ u v w => evalFq12 u v w a = evalFq12 u v w b) : a = b := by
  obtain ⟨K, _, u, v, w, hK⟩ := exists_towerField
  exact hK.fq12_inj ha hb (h K u v w hK.toTowerRoots)

/-! ### The norms -/

section
variable {R : Type} [CommRing R] {u v w : R} (h : TowerRoots R u v w)
include h

/-- The norm of `Fq2` is the product of the two conjugates. -/
theorem eval_fq2Norm (a : Fq2) : ((subMod params.q (sqrMod params.q a.c0)
      (mulMod params.q params.nonres2 (sqrMod params.q a.c1)) : Nat) : R) =
    evalFq2 u a * (a.c0 - a.c1 * u) := by
  rw [cast_subMod h.char _ (mulMod_lt q_pos _ _), cast_mulMod h.char, cast_sqrMod h.char, cast_sqrMod h.char, ← h.u_sq,
    evalFq2]
  ring

/-- The three cofactors of `Fq6`. -/
theorem eval_fq6Cofactors (a : Fq6) :
    evalFq2 u (fq6Cofactors params a).c0 = evalFq2 u a.c0 ^ 2 - v ^ 3 * (evalFq2 u a.c1 * evalFq2 u a.c2) ∧
    evalFq2 u (fq6Cofactors params a).c1 = v ^ 3 * evalFq2 u a.c2 ^ 2 - evalFq2 u a.c0 * evalFq2 u a.c1 ∧
    evalFq2 u (fq6Cofactors params a).c2 = evalFq2 u a.c1 ^ 2 - evalFq2 u a.c0 * evalFq2 u a.c2 := by
  refine ⟨?_, ?_, ?_⟩ <;>
    simp only [fq6Cofactors, eval_fq2Sub h _ (fq2Mul_reduced one_lt_q _ _), eval_fq2Mul h, eval_fq2Sqr h, ← h.v_cube]

/-- The norm of `Fq6` is the product with the cofactors. -/
theorem eval_fq6Norm (a : Fq6) :
    evalFq2 u (fq6Norm params a) = evalFq6 u v a * evalFq6 u v (fq6Cofactors params a) := by
  obtain ⟨h0, h1, h2⟩ := eval_fq6Cofactors h a
  simp only [fq6Norm, evalFq6, eval_fq2Add h, eval_fq2Mul h, ← h.v_cube, h0, h1, h2]
  ring

/-- The norm of `Fq12` is the product of the two conjugates. -/
theorem eval_fq12Norm (a : Fq12) :
    evalFq6 u v (fq6Sub params (fq6Sqr params a.c0) (fq6Mul params params.nonres12 (fq6Sqr params a.c1))) =
      evalFq12 u v w a * (evalFq6 u v a.c0 - evalFq6 u v a.c1 * w) := by
  rw [eval_fq6Sub h _ (fq6Mul_reduced one_lt_q _ _), eval_fq6Mul h, eval_fq6Sqr h, eval_fq6Sqr h, ← h.w_sq, evalFq12]
  ring

end

theorem fq6Cofactors_reduced (a : Fq6) : (fq6Cofactors params a).Reduced params.q :=
  ⟨fq2Sub_reduced one_lt_q _ _, fq2Sub_reduced one_lt_q _ _, fq2Sub_reduced one_lt_q _ _⟩

theorem fq6Norm_reduced (a : Fq6) : (fq6Norm params a).Reduced params.q := fq2Add_reduced one_lt_q _ _

/-! ### An answer is the inverse -/

/-- Inverse in the prime field, so inverse wherever the modulus is 0. -/
theorem cast_mul_eq_one {R : Type} [CommRing R] {m a b : Nat} (hm : (m : R) = 0) (h : (a : ZMod m) * b = 1) :
    (a : R) * b = 1 := by
  have hmod : a * b ≡ 1 [MOD m] := by rw [← ZMod.natCast_eq_natCast_iff]; push_cast; exact h
  have hcast := congrArg (Nat.cast : Nat → R) hmod
  rw [cast_mod hm, cast_mod hm] at hcast
  exact_mod_cast hcast

section
variable {R : Type} [CommRing R] {u v w : R} (h : TowerRoots R u v w)
include h

theorem eval_mul_fq2Inv {a b : Fq2} (hb : fq2Inv params a = some b) : evalFq2 u a * evalFq2 u b = 1 := by
  rw [fq2Inv] at hb
  split at hb
  · cases hb
  · obtain ⟨t, ht, rfl⟩ := Option.map_eq_some_iff.mp hb
    have hnorm := cast_mul_eq_one h.char (cast_mul_invMod q_prime (subMod_lt q_pos _ _) ht)
    rw [eval_fq2Norm h] at hnorm
    rw [← hnorm, evalFq2, evalFq2, cast_negMod h.char (mulMod_lt q_pos _ _), cast_mulMod h.char, cast_mulMod h.char]
    ring

theorem eval_mul_fq6Inv {a b : Fq6} (hb : fq6Inv params a = some b) : evalFq6 u v a * evalFq6 u v b = 1 := by
  rw [fq6Inv] at hb
  split at hb
  · cases hb
  · obtain ⟨t, ht, rfl⟩ := Option.map_eq_some_iff.mp hb
    have hnorm := eval_mul_fq2Inv h ht
    rw [eval_fq6Norm h] at hnorm
    rw [← hnorm]
    simp only [evalFq6, fq6Scale, eval_fq2Mul h]
    ring

theorem eval_mul_fq12Inv {a b : Fq12} (hb : fq12Inv params a = some b) : evalFq12 u v w a * evalFq12 u v w b = 1 := by
  rw [fq12Inv] at hb
  split at hb
  · cases hb
  · obtain ⟨t, ht, rfl⟩ := Option.map_eq_some_iff.mp hb
    have hnorm := eval_mul_fq6Inv h ht
    rw [eval_fq12Norm h] at hnorm
    rw [← hnorm]
    simp only [evalFq12, eval_fq6Mul h, eval_fq6Neg h (fq6Mul_reduced one_lt_q _ _)]
    ring

end

/-! ### Only zero has none -/

section
variable {K : Type} [Field K] {u v w : K} (hK : TowerField K u v w)
include hK

theorem TowerField.fq2_eq_zero {a : Fq2} (ha : a.Reduced params.q) (h : evalFq2 u a = 0) : a = fq2Zero :=
  hK.fq2_inj ha (fq2Zero_reduced one_lt_q) (h.trans eval_fq2Zero.symm)

theorem TowerField.fq6_eq_zero {a : Fq6} (ha : a.Reduced params.q) (h : evalFq6 u v a = 0) : a = fq6Zero :=
  hK.fq6_inj ha (fq6Zero_reduced one_lt_q) (h.trans eval_fq6Zero.symm)

theorem TowerField.fq12_eq_zero {a : Fq12} (ha : a.Reduced params.q) (h : evalFq12 u v w a = 0) : a = fq12Zero :=
  hK.fq12_inj ha (fq12Zero_reduced one_lt_q) (h.trans eval_fq12Zero.symm)

/-- An element of `Fq2` whose conjugate is 0 is 0. -/
theorem TowerField.fq2_eq_zero_of_conj {a : Fq2} (ha : a.Reduced params.q) (h : (a.c0 : K) - a.c1 * u = 0) :
    a = fq2Zero := by
  have hparts := hK.fq2_inj (x₁ := ⟨a.c0, 0⟩) ⟨ha.1, q_pos⟩ (x₂ := ⟨0, a.c1⟩) ⟨q_pos, ha.2⟩
    (by simpa [evalFq2, sub_eq_zero] using h)
  obtain ⟨h0, h1⟩ := (Fq2.mk.injEq ..).mp hparts
  exact (Fq2.mk.injEq ..).mpr ⟨h0, h1.symm⟩

theorem TowerField.fq12_eq_zero_of_conj {a : Fq12} (ha : a.Reduced params.q)
    (h : evalFq6 u v a.c0 - evalFq6 u v a.c1 * w = 0) : a = fq12Zero := by
  have hz := fq6Zero_reduced one_lt_q
  have hparts := hK.fq12_inj (x₁ := ⟨a.c0, fq6Zero⟩) ⟨ha.1, hz⟩ (x₂ := ⟨fq6Zero, a.c1⟩) ⟨hz, ha.2⟩
    (by simpa [evalFq12, eval_fq6Zero, sub_eq_zero] using h)
  obtain ⟨h0, h1⟩ := (Fq12.mk.injEq ..).mp hparts
  exact (Fq12.mk.injEq ..).mpr ⟨h0, h1.symm⟩

end

/-- `inv` of `Fq2` has an answer for every element but 0 (R153). -/
theorem fq2Inv_eq_none_iff {a : Fq2} (ha : a.Reduced params.q) : fq2Inv params a = none ↔ a = fq2Zero := by
  obtain ⟨K, _, u, v, w, hK⟩ := exists_towerField
  rw [fq2Inv, ite_eq_left_iff, Option.map_eq_none_iff, invMod_eq_none_iff]
  refine ⟨fun hnone => by_contra fun h0 => ?_, fun h0 hne => absurd h0 hne⟩
  have hnorm := eval_fq2Norm hK.toTowerRoots a
  rw [hnone h0, Nat.cast_zero] at hnorm
  rcases mul_eq_zero.mp hnorm.symm with hval | hconj
  · exact h0 (hK.fq2_eq_zero ha hval)
  · exact h0 (hK.fq2_eq_zero_of_conj ha hconj)

/-- The cofactors of an element of `Fq6` other than 0 are not all 0: otherwise `ξ` is the cube of `a1 / a2`. -/
theorem eq_zero_of_fq6Cofactors {a : Fq6} (ha : a.Reduced params.q) (hcof : fq6Cofactors params a = fq6Zero) :
    a = fq6Zero := by
  obtain ⟨K, _, u, v, w, hK⟩ := exists_towerField
  have hroots := hK.toTowerRoots
  obtain ⟨h0, h1, h2⟩ := eval_fq6Cofactors hroots a
  simp only [hcof, fq6Zero, eval_fq2Zero] at h0 h1 h2
  obtain ⟨ha0, ha1, ha2⟩ := ha
  have hsecond : a.c2 = fq2Zero := by
    by_contra hne
    obtain ⟨b, hb⟩ := Option.ne_none_iff_exists'.mp (mt (fq2Inv_eq_none_iff ha2).mp hne)
    have hinv := eval_mul_fq2Inv hroots hb
    refine params_wellFormed.nonres6_nonCube (fq2Mul params a.c1 b) (fq2Mul_reduced one_lt_q _ _)
      (hK.fq2_inj (fq2Mul_reduced one_lt_q _ _) params_wellFormed.nonres6_reduced ?_)
    simp only [eval_fq2Mul hroots, ← hroots.v_cube]
    generalize evalFq2 u a.c0 = x at *
    generalize evalFq2 u a.c1 = y at *
    generalize evalFq2 u a.c2 = z at *
    generalize evalFq2 u b = t at *
    linear_combination (-t ^ 3 * y) * h2 + t ^ 3 * z * h1 + v ^ 3 * (z ^ 2 * t ^ 2 + z * t + 1) * hinv
  rw [hsecond, eval_fq2Zero] at h0 h1 h2
  have hfirst : a.c1 = fq2Zero := hK.fq2_eq_zero ha1 (by simpa using h2.symm)
  rw [hfirst, eval_fq2Zero] at h0
  have hzeroth : a.c0 = fq2Zero := hK.fq2_eq_zero ha0 (by simpa using h0.symm)
  exact (Fq6.mk.injEq ..).mpr ⟨hzeroth, hfirst, hsecond⟩

/-- `inv` of `Fq6` has an answer for every element but 0 (R168). -/
theorem fq6Inv_eq_none_iff {a : Fq6} (ha : a.Reduced params.q) : fq6Inv params a = none ↔ a = fq6Zero := by
  obtain ⟨K, _, u, v, w, hK⟩ := exists_towerField
  rw [fq6Inv, ite_eq_left_iff, Option.map_eq_none_iff, fq2Inv_eq_none_iff (fq6Norm_reduced a)]
  refine ⟨fun hnone => by_contra fun h0 => ?_, fun h0 hne => absurd h0 hne⟩
  have hnorm := eval_fq6Norm hK.toTowerRoots a
  rw [hnone h0, eval_fq2Zero] at hnorm
  rcases mul_eq_zero.mp hnorm.symm with hval | hcof
  · exact h0 (hK.fq6_eq_zero ha hval)
  · exact h0 (eq_zero_of_fq6Cofactors ha (hK.fq6_eq_zero (fq6Cofactors_reduced a) hcof))

/-- `inv` of `Fq12` has an answer for every element but 0 (R183). -/
theorem fq12Inv_eq_none_iff {a : Fq12} (ha : a.Reduced params.q) : fq12Inv params a = none ↔ a = fq12Zero := by
  obtain ⟨K, _, u, v, w, hK⟩ := exists_towerField
  rw [fq12Inv, ite_eq_left_iff, Option.map_eq_none_iff, fq6Inv_eq_none_iff (fq6Sub_reduced one_lt_q _ _)]
  refine ⟨fun hnone => by_contra fun h0 => ?_, fun h0 hne => absurd h0 hne⟩
  have hnorm := eval_fq12Norm hK.toTowerRoots a
  rw [hnone h0, eval_fq6Zero] at hnorm
  rcases mul_eq_zero.mp hnorm.symm with hval | hconj
  · exact h0 (hK.fq12_eq_zero ha hval)
  · exact h0 (hK.fq12_eq_zero_of_conj ha hconj)

/-- Settles O37: the norms vanish for zero alone, and an answer times the operand is the norm over itself. -/
theorem towerInverseResults : Obligations.TowerInverseResults :=
  ⟨partialUnary_of fq2Elem_form fq2Elem_form (fq2Inv params) (fun _ _ _ => rfl) fun a ha =>
      ⟨fun _ => fq2Inv_reduced one_lt_q, (fq2Inv_eq_none_iff ha).trans (fq2_eq_zero_iff a),
        fun _ hb _ _ _ _ _ h => eval_mul_fq2Inv h hb⟩,
    partialUnary_of fq6Elem_form fq6Elem_form (fq6Inv params) (fun _ _ _ => rfl) fun a ha =>
      ⟨fun _ => fq6Inv_reduced one_lt_q, (fq6Inv_eq_none_iff ha).trans (fq6_eq_zero_iff a),
        fun _ hb _ _ _ _ _ h => eval_mul_fq6Inv h hb⟩,
    partialUnary_of fq12Elem_form fq12Elem_form (fq12Inv params) (fun _ _ _ => rfl) fun a ha =>
      ⟨fun _ => fq12Inv_reduced one_lt_q, (fq12Inv_eq_none_iff ha).trans (fq12_eq_zero_iff a),
        fun _ hb _ _ _ _ _ h => eval_mul_fq12Inv h hb⟩⟩

/-! ### Quotients -/

theorem divideBy_eq_none_iff {α : Type} (mul : α → α → α) (inv : α → Option α) (a b : α) :
    divideBy mul inv a b = none ↔ inv b = none := Option.map_eq_none_iff

/-- A quotient times the divisor is the dividend. -/
theorem map_divideBy {α R : Type} [CommRing R] {mul : α → α → α} {inv : α → Option α} (f : α → R)
    (hmul : ∀ a b, f (mul a b) = f a * f b) {b : α} (hinv : ∀ t, inv b = some t → f b * f t = 1) {a c : α}
    (hc : divideBy mul inv a b = some c) : f c * f b = f a := by
  obtain ⟨t, ht, rfl⟩ := Option.map_eq_some_iff.mp hc
  rw [hmul]
  linear_combination f a * hinv t ht

/-- `div` of a prime field (R114). -/
theorem divMod_spec {m : Nat} (hm : m.Prime) (a : Nat) {b : Nat} (hb : b < m) :
    (∀ c, divideBy (mulMod m) (invMod m) a b = some c → c < m) ∧
    (divideBy (mulMod m) (invMod m) a b = none ↔ b = 0) ∧
    ∀ c ∈ divideBy (mulMod m) (invMod m) a b, ((c : Nat) : ZMod m) * b = a :=
  ⟨fun _ => divideBy_valid (P := (· < m)) fun _ _ => mulMod_lt hm.pos _ _,
    (divideBy_eq_none_iff ..).trans (invMod_eq_none_iff m b),
    fun _ hc => map_divideBy (Nat.cast : Nat → ZMod m) cast_mulMod_self (fun _ ht => cast_mul_invMod hm hb ht) hc⟩

/-- Settles O38: the product with the inverse. -/
theorem divisionResults : Obligations.DivisionResults :=
  ⟨partialBinary_of (primeElem_form _) (primeElem_form _) (primeElem_form _) (divideBy (mulMod _) (invMod _))
      (fun _ _ _ _ => rfl) fun a _ _ hb => divMod_spec q_prime a hb,
    partialBinary_of (primeElem_form _) (primeElem_form _) (primeElem_form _) (divideBy (mulMod _) (invMod _))
      (fun _ _ _ _ => rfl) fun a _ _ hb => divMod_spec r_prime a hb,
    partialBinary_of fq2Elem_form fq2Elem_form fq2Elem_form (divideBy (fq2Mul params) (fq2Inv params))
      (fun _ _ _ _ => rfl) fun _ b _ hb =>
        ⟨fun _ => divideBy_valid (P := Fq2.Reduced params.q) (fq2Mul_reduced one_lt_q),
          (divideBy_eq_none_iff ..).trans ((fq2Inv_eq_none_iff hb).trans (fq2_eq_zero_iff b)),
          fun _ hc _ _ _ _ _ h => map_divideBy _ (eval_fq2Mul h) (fun _ => eval_mul_fq2Inv h) hc⟩,
    partialBinary_of fq6Elem_form fq6Elem_form fq6Elem_form (divideBy (fq6Mul params) (fq6Inv params))
      (fun _ _ _ _ => rfl) fun _ b _ hb =>
        ⟨fun _ => divideBy_valid (P := Fq6.Reduced params.q) (fq6Mul_reduced one_lt_q),
          (divideBy_eq_none_iff ..).trans ((fq6Inv_eq_none_iff hb).trans (fq6_eq_zero_iff b)),
          fun _ hc _ _ _ _ _ h => map_divideBy _ (eval_fq6Mul h) (fun _ => eval_mul_fq6Inv h) hc⟩,
    partialBinary_of fq12Elem_form fq12Elem_form fq12Elem_form (divideBy (fq12Mul params) (fq12Inv params))
      (fun _ _ _ _ => rfl) fun _ b _ hb =>
        ⟨fun _ => divideBy_valid (P := Fq12.Reduced params.q) (fq12Mul_reduced one_lt_q),
          (divideBy_eq_none_iff ..).trans ((fq12Inv_eq_none_iff hb).trans (fq12_eq_zero_iff b)),
          fun _ hc _ _ _ _ _ h => map_divideBy _ (eval_fq12Mul h) (fun _ => eval_mul_fq12Inv h) hc⟩⟩

/-! ### The cyclotomic commands -/

/-- The machine's test of `C` is membership of `C` (R214). -/
theorem inCyclotomic_iff (a : Fq12) : inCyclotomic params a = true ↔ InCyclotomic a := by
  rw [inCyclotomic, decide_eq_true_iff]
  refine ⟨fun hpow _ _ u v w h => ?_, fun hpow => fq12_ext (fq12Pow_reduced one_lt_q _ _) (fq12One_reduced one_lt_q)
    fun _ _ u v w h => ?_⟩
  · exact (eval_fq12Pow h a params.r).symm.trans ((congrArg (evalFq12 u v w) hpow).trans eval_fq12One)
  · exact (eval_fq12Pow h a params.r).trans ((hpow _ u v w h).trans eval_fq12One.symm)

section
variable {s : State} {rd ra rb : CellIdx} {a : Fq12} {e : Nat} (hs : s.flt = false) (ha : a.Reduced params.q)
  (h1 : holds s ra (fq12Form.cells a)) (hd : fits rd 12)
include hs ha h1 hd

theorem cycsqr_next : exec (.cycsqrFq12 rd ra) s = .next (storeCyclotomic params s rd a (fq12Sqr params a)) := by
  have hpass : violation [elemSource (fq12Elem params) ra] [elemDest (fq12Elem params) rd] s.cells = none :=
    violation_eq_none_iff.mpr ⟨List.forall_mem_singleton.mpr (elem_checks fq12Elem_form ha h1),
      List.forall_mem_singleton.mpr hd⟩
  show cycsqrCommand params rd ra s = _
  rw [cycsqrCommand, command_run hs hpass, loadElem_held fq12Elem_form h1]

theorem cycexp_next (h2 : holds s rb [e]) :
    exec (.cycexpFq12 rd ra rb) s = .next (storeCyclotomic params s rd a (fq12Pow params a e)) := by
  have hraw : holds s rb (rawForm.cells e) := h2
  have hpass : violation [elemSource (fq12Elem params) ra, elemSource rawElem rb] [elemDest (fq12Elem params) rd] s.cells =
      none :=
    violation_eq_none_iff.mpr ⟨List.forall_mem_cons.mpr ⟨elem_checks fq12Elem_form ha h1,
      List.forall_mem_singleton.mpr (elem_checks rawElem_form trivial hraw)⟩, List.forall_mem_singleton.mpr hd⟩
  show cycexpCommand params rd ra rb s = _
  rw [cycexpCommand, command_run hs hpass, loadElem_held fq12Elem_form h1, loadElem_held rawElem_form hraw]

end

theorem storeCyclotomic_inside {a : Fq12} (hC : InCyclotomic a) (s : State) (rd : CellIdx) (c : Fq12) :
    storeCyclotomic params s rd a c = s.write rd.toNat (fq12Form.cells c) := by
  rw [storeCyclotomic, if_pos ((inCyclotomic_iff a).mpr hC), storeElem_eq fq12Elem_form]

theorem storeCyclotomic_outside {a : Fq12} (hC : ¬ InCyclotomic a) (s : State) (rd : CellIdx) (c : Fq12) :
    storeCyclotomic params s rd a c =
      { s.write rd.toNat (fq12Form.cells (freeFq12 params s.drawn)) with drawn := s.drawn + 1 } := by
  rw [storeCyclotomic, if_neg (mt (inCyclotomic_iff a).mp hC), storeElem_eq fq12Elem_form]

/-- Settles O43: on `C` the square and the power are stored. -/
theorem cyclotomicInside : Obligations.CyclotomicInside :=
  ⟨fun s rd _ a hs ha h1 hd hC => ⟨fq12Sqr params a, fq12Mul_reduced one_lt_q a a, fun _ _ _ _ _ h => eval_fq12Sqr h a, by
      rw [cycsqr_next hs ha h1 hd, storeCyclotomic_inside hC]⟩,
    fun s rd _ _ a e hs ha h1 h2 hd hC =>
      ⟨fq12Pow params a e, fq12Pow_reduced one_lt_q a e, fun _ _ _ _ _ h => eval_fq12Pow h a e, by
        rw [cycexp_next hs ha h1 hd h2, storeCyclotomic_inside hC]⟩⟩

/-- Settles O44: outside `C` the free element is stored, and it is reduced. -/
theorem cyclotomicOutside : Obligations.CyclotomicOutside :=
  ⟨fun s rd _ a hs ha h1 hd hC => ⟨freeFq12 params s.drawn, freeFq12_reduced one_lt_q _, by
      rw [cycsqr_next hs ha h1 hd, storeCyclotomic_outside hC]⟩,
    fun s rd _ _ a e hs ha h1 h2 hd hC => ⟨freeFq12 params s.drawn, freeFq12_reduced one_lt_q _, by
      rw [cycexp_next hs ha h1 hd h2, storeCyclotomic_outside hC]⟩⟩

end Sys2Proof.Machine
end

section
/-! The Frobenius map (43_frobenius_sparse_cyclotomic.md R201 to R204). In the field of the tower the power by `q^k` is a ring
map, so it is known by what it does to `u`, `v` and `w`, and there the tables hold its values; as reduced elements the two
sides are then equal in every ring of the tower. -/

namespace Sys2Proof.Machine

open Config

/-! ### Powers of a radical -/

/-- A power by a number that is 1 modulo the degree takes a radical to a multiple of itself. -/
theorem radical_pow {R : Type} [CommRing R] {r d : R} {n Q : Nat} (hr : r ^ n = d) (hQ : Q % n = 1) :
    r ^ Q = r * d ^ ((Q - 1) / n) := by
  have hdiv := Nat.div_add_mod Q n
  have hexp : (Q - 1) / n = Q / n := by
    rcases Nat.eq_zero_or_pos n with rfl | hn
    · simp
    · rw [show Q - 1 = n * (Q / n) by omega, Nat.mul_div_cancel_left _ hn]
  conv_lhs => rw [← hdiv, hQ, pow_succ, pow_mul, hr]
  rw [hexp, mul_comm]

/-- Where the power by `Q` fixes `d`, the power by `Q^n` fixes its `n`-th root. -/
theorem radical_pow_fixed {K : Type} [Field K] {r d : K} {n Q N m : Nat} (hr : r ^ n = d) (hn : n ≠ 0) (hQ : 0 < Q)
    (hd : d ^ Q = d) (hN : N = n * ((Q - 1) * m) + 1) : r ^ N = r := by
  rw [hN, pow_succ, pow_mul, hr, pow_mul]
  by_cases h0 : d = 0
  · rw [(pow_eq_zero_iff hn).mp (hr.trans h0), mul_zero]
  · have hone : d ^ (Q - 1) = 1 := by
      refine mul_right_cancel₀ h0 ?_
      rw [← pow_succ, Nat.sub_add_cancel hQ, hd, one_mul]
    rw [hone, one_pow, one_mul]

theorem square_eq_of_odd {Q : Nat} (hQ : Q % 2 = 1) : Q ^ 2 = 2 * ((Q - 1) * (Q / 2 + 1)) + 1 := by
  obtain ⟨t, ht⟩ : ∃ t, Q = 2 * t + 1 := ⟨Q / 2, by omega⟩
  rw [show Q / 2 = t by omega, show Q - 1 = 2 * t by omega, ht]
  ring

theorem cube_eq_of_mod_three {Q : Nat} (hQ : Q % 3 = 1) :
    Q ^ 3 = 3 * ((Q - 1) * (3 * (Q / 3) ^ 2 + 3 * (Q / 3) + 1)) + 1 := by
  obtain ⟨t, ht⟩ : ∃ t, Q = 3 * t + 1 := ⟨Q / 3, by omega⟩
  rw [show Q / 3 = t by omega, show Q - 1 = 3 * t by omega, ht]
  ring

theorem pow_mod_eq_one {Q n : Nat} (hn : 1 < n) (hQ : Q % n = 1) (j : Nat) : Q ^ j % n = 1 := by
  rw [Nat.pow_mod, hQ, one_pow, Nat.mod_eq_of_lt hn]

theorem q_pow_odd (j : Nat) : params.q ^ j % 2 = 1 := pow_mod_eq_one one_lt_two params_wellFormed.fq.odd j
theorem q_pow_mod_three (j : Nat) : params.q ^ j % 3 = 1 := pow_mod_eq_one (by decide) params_wellFormed.q_mod_three j

/-- What the power by `q^d` fixes, the power by `q^k` takes where that by `q^(k mod d)` does. -/
theorem pow_q_mod {R : Type} [CommRing R] {x : R} {q d : Nat} (hx : x ^ q ^ d = x) (k : Nat) :
    x ^ q ^ k = x ^ q ^ (k % d) := by
  have hmul (m : Nat) : x ^ q ^ (d * m) = x := by
    induction m with
    | zero => rw [Nat.mul_zero, pow_zero, pow_one]
    | succ m ih => rw [Nat.mul_succ, pow_add, pow_mul, ih, hx]
  conv_lhs => rw [← Nat.div_add_mod k d, pow_add, pow_mul, hmul]

/-! ### The tables (R204) -/

theorem getD_range_map {α : Type} (f : Nat → α) (d : α) {n j : Nat} (hj : j < n) :
    ((List.range n).map f).getD j d = f j := by
  rw [List.getD_eq_getElem?_getD, List.getElem?_map, List.getElem?_range hj, Option.map_some, Option.getD_some]

theorem frob2_entry (k : Nat) :
    params.frob2.getD (k % 2) 0 = powMod params.q params.nonres2 ((params.q ^ (k % 2) - 1) / 2) := by
  rw [params_wellFormed.frob2, getD_range_map _ _ (Nat.mod_lt k (by decide))]

theorem frob6c1_entry (k : Nat) :
    params.frob6c1.getD (k % 6) fq2Zero = fq2Pow params params.nonres6 ((params.q ^ (k % 6) - 1) / 3) := by
  rw [params_wellFormed.frob6c1, getD_range_map _ _ (Nat.mod_lt k (by decide))]

theorem frob6c2_entry (k : Nat) :
    params.frob6c2.getD (k % 6) fq2Zero = fq2Pow params params.nonres6 ((2 * params.q ^ (k % 6) - 2) / 3) := by
  rw [params_wellFormed.frob6c2, getD_range_map _ _ (Nat.mod_lt k (by decide))]

theorem frob12c1_entry (k : Nat) :
    params.frob12c1.getD (k % 12) fq6Zero = fq6Pow params params.nonres12 ((params.q ^ (k % 12) - 1) / 2) := by
  rw [params_wellFormed.frob12c1, getD_range_map _ _ (Nat.mod_lt k (by decide))]

/-- Two table entries make the square of one: the exponents of R204 for `v` and for `v²`. -/
theorem frob6_exponents (j : Nat) :
    (2 * params.q ^ j - 2) / 3 = (params.q ^ j - 1) / 3 + (params.q ^ j - 1) / 3 := by
  have := q_pow_mod_three j
  omega

/-! ### The power by `q^k` in the field of the tower -/

/-- The power by `q^k` is a ring map of every field in which `q = 0`. -/
theorem exists_frobenius {K : Type} [Field K] (hq : (params.q : K) = 0) (k : Nat) :
    ∃ φ : K →+* K, ∀ x, φ x = x ^ params.q ^ k := by
  have : Fact params.q.Prime := ⟨q_prime⟩
  have : CharP K params.q := (CharP.charP_iff_prime_eq_zero q_prime).mpr hq
  exact ⟨iterateFrobenius K params.q k, fun x => iterateFrobenius_def params.q k x⟩

section
variable {K : Type} [Field K] {u v w : K} (h : TowerRoots K u v w)
include h

theorem evalFq2_pow (a : Fq2) (k : Nat) : evalFq2 u a ^ params.q ^ k = evalFq2 (u ^ params.q ^ k) a := by
  obtain ⟨φ, hφ⟩ := exists_frobenius h.char k
  rw [← hφ, map_evalFq2, hφ]

theorem evalFq6_pow (a : Fq6) (k : Nat) :
    evalFq6 u v a ^ params.q ^ k = evalFq6 (u ^ params.q ^ k) (v ^ params.q ^ k) a := by
  obtain ⟨φ, hφ⟩ := exists_frobenius h.char k
  rw [← hφ, map_evalFq6, hφ, hφ]

theorem evalFq12_pow (a : Fq12) (k : Nat) :
    evalFq12 u v w a ^ params.q ^ k = evalFq6 u v a.c0 ^ params.q ^ k + evalFq6 u v a.c1 ^ params.q ^ k * w ^ params.q ^ k := by
  obtain ⟨φ, hφ⟩ := exists_frobenius h.char k
  rw [← hφ, ← hφ, ← hφ, ← hφ, evalFq12, map_add, map_mul]

/-- `u^(q²) = u`, and so for the other roots. -/
theorem u_pow_fixed : u ^ params.q ^ 2 = u := by
  obtain ⟨φ, hφ⟩ := exists_frobenius h.char 1
  have hβ : (params.nonres2 : K) ^ params.q = params.nonres2 := by
    have hcast := hφ (params.nonres2 : K)
    rw [map_natCast, pow_one] at hcast
    exact hcast.symm
  exact radical_pow_fixed h.u_sq two_ne_zero q_pos hβ (square_eq_of_odd params_wellFormed.fq.odd)

theorem evalFq2_pow_fixed (a : Fq2) : evalFq2 u a ^ params.q ^ 2 = evalFq2 u a := by
  rw [evalFq2_pow h, u_pow_fixed h]

theorem v_pow_fixed : v ^ params.q ^ 6 = v := by
  have hN : params.q ^ 6 = (params.q ^ 2) ^ 3 := by rw [← pow_mul]
  exact radical_pow_fixed h.v_cube three_ne_zero (Nat.pow_pos q_pos) (evalFq2_pow_fixed h _)
    (hN.trans (cube_eq_of_mod_three (q_pow_mod_three 2)))

theorem evalFq6_pow_fixed (a : Fq6) : evalFq6 u v a ^ params.q ^ 6 = evalFq6 u v a := by
  rw [evalFq6_pow h, v_pow_fixed h, pow_q_mod (u_pow_fixed h) 6, pow_zero, pow_one]

theorem w_pow_fixed : w ^ params.q ^ 12 = w := by
  have hN : params.q ^ 12 = (params.q ^ 6) ^ 2 := by rw [← pow_mul]
  exact radical_pow_fixed h.w_sq two_ne_zero (Nat.pow_pos q_pos) (evalFq6_pow_fixed h _)
    (hN.trans (square_eq_of_odd (q_pow_odd 6)))

/-! ### The map of the rules is that power -/

theorem eval_fq2Frob (a : Fq2) (k : Nat) : evalFq2 u (fq2Frob params k a) = evalFq2 u a ^ params.q ^ k := by
  rw [evalFq2_pow h, pow_q_mod (u_pow_fixed h), radical_pow h.u_sq (q_pow_odd _), fq2Frob, evalFq2, evalFq2, frob2_entry,
    cast_mulMod h.char, cast_powMod h.char]
  ring

theorem eval_fq6Frob (a : Fq6) (k : Nat) : evalFq6 u v (fq6Frob params k a) = evalFq6 u v a ^ params.q ^ k := by
  rw [evalFq6_pow h, evalFq6, evalFq6, pow_q_mod (v_pow_fixed h), radical_pow h.v_cube (q_pow_mod_three _)]
  simp only [fq6Frob, frob6c1_entry, frob6c2_entry, frob6_exponents, eval_fq2Mul h, eval_fq2Pow h, eval_fq2Frob h,
    evalFq2_pow h]
  ring

theorem eval_fq12Frob (a : Fq12) (k : Nat) :
    evalFq12 u v w (fq12Frob params k a) = evalFq12 u v w a ^ params.q ^ k := by
  rw [evalFq12_pow h, evalFq12, pow_q_mod (w_pow_fixed h), radical_pow h.w_sq (q_pow_odd _)]
  simp only [fq12Frob, frob12c1_entry, eval_fq6Mul h, eval_fq6Pow h, eval_fq6Frob h]
  ring

end

/-! ### In every ring of the tower -/

theorem fq2Frob_eq_pow {a : Fq2} (ha : a.Reduced params.q) (k : Nat) :
    fq2Frob params k a = fq2Pow params a (params.q ^ k) := by
  obtain ⟨K, _, u, v, w, hK⟩ := exists_towerField
  refine hK.fq2_inj (fq2Frob_reduced one_lt_q ha k) (fq2Pow_reduced one_lt_q _ _) ?_
  rw [eval_fq2Frob hK.toTowerRoots, eval_fq2Pow hK.toTowerRoots]

theorem fq6Frob_eq_pow {a : Fq6} (ha : a.Reduced params.q) (k : Nat) :
    fq6Frob params k a = fq6Pow params a (params.q ^ k) := by
  obtain ⟨K, _, u, v, w, hK⟩ := exists_towerField
  refine hK.fq6_inj (fq6Frob_reduced one_lt_q ha k) (fq6Pow_reduced one_lt_q _ _) ?_
  rw [eval_fq6Frob hK.toTowerRoots, eval_fq6Pow hK.toTowerRoots]

theorem fq12Frob_eq_pow {a : Fq12} (ha : a.Reduced params.q) (k : Nat) :
    fq12Frob params k a = fq12Pow params a (params.q ^ k) := by
  obtain ⟨K, _, u, v, w, hK⟩ := exists_towerField
  refine hK.fq12_inj (fq12Frob_reduced one_lt_q ha k) (fq12Pow_reduced one_lt_q _ _) ?_
  rw [eval_fq12Frob hK.toTowerRoots, eval_fq12Pow hK.toTowerRoots]

/-- The map depends on `k` modulo the degree alone. -/
theorem fq2Frob_mod (k : Nat) (a : Fq2) : fq2Frob params k a = fq2Frob params (k % 2) a := by
  simp only [fq2Frob, Nat.mod_mod]

theorem fq6Frob_mod (k : Nat) (a : Fq6) : fq6Frob params k a = fq6Frob params (k % 6) a := by
  simp only [fq6Frob, fq2Frob, Nat.mod_mod, Nat.mod_mod_of_dvd k (show 2 ∣ 6 by decide)]

theorem fq12Frob_mod (k : Nat) (a : Fq12) : fq12Frob params k a = fq12Frob params (k % 12) a := by
  simp only [fq12Frob, fq6Frob, fq2Frob, Nat.mod_mod, Nat.mod_mod_of_dvd k (show 2 ∣ 12 by decide),
    Nat.mod_mod_of_dvd k (show 6 ∣ 12 by decide)]

section
variable {R : Type} [CommRing R] {u v w : R} (h : TowerRoots R u v w)
include h

theorem evalFq2_fq2Frob {a : Fq2} (ha : a.Reduced params.q) (k : Nat) :
    evalFq2 u (fq2Frob params k a) = evalFq2 u a ^ params.q ^ k := by
  rw [fq2Frob_eq_pow ha, eval_fq2Pow h]

theorem evalFq6_fq6Frob {a : Fq6} (ha : a.Reduced params.q) (k : Nat) :
    evalFq6 u v (fq6Frob params k a) = evalFq6 u v a ^ params.q ^ k := by
  rw [fq6Frob_eq_pow ha, eval_fq6Pow h]

theorem evalFq12_fq12Frob {a : Fq12} (ha : a.Reduced params.q) (k : Nat) :
    evalFq12 u v w (fq12Frob params k a) = evalFq12 u v w a ^ params.q ^ k := by
  rw [fq12Frob_eq_pow ha, eval_fq12Pow h]

end

theorem fq2Frob_zero {a : Fq2} (ha : a.Reduced params.q) : fq2Frob params 0 a = a :=
  fq2_ext (fq2Frob_reduced one_lt_q ha 0) ha fun _ _ u _ _ h =>
    (evalFq2_fq2Frob h ha 0).trans (by rw [pow_zero, pow_one])

theorem fq6Frob_zero {a : Fq6} (ha : a.Reduced params.q) : fq6Frob params 0 a = a :=
  fq6_ext (fq6Frob_reduced one_lt_q ha 0) ha fun _ _ u v _ h =>
    (evalFq6_fq6Frob h ha 0).trans (by rw [pow_zero, pow_one])

theorem fq12Frob_zero {a : Fq12} (ha : a.Reduced params.q) : fq12Frob params 0 a = a :=
  fq12_ext (fq12Frob_reduced one_lt_q ha 0) ha fun _ _ u v w h =>
    (evalFq12_fq12Frob h ha 0).trans (by rw [pow_zero, pow_one])

/-- Settles O42: the map is the power by `q^k`, and the same map for `k` modulo the degree. -/
theorem frobeniusResults : Obligations.FrobeniusResults :=
  ⟨fun k => unary_of fq2Elem_form fq2Elem_form (fq2Frob params k.toNat) (fun _ _ _ => rfl) fun a ha =>
      ⟨fq2Frob_reduced one_lt_q ha _,
        fun _ _ u _ _ h => (congrArg (evalFq2 u) (fq2Frob_mod _ a)).trans (evalFq2_fq2Frob h ha _),
        fun _ _ _ _ _ h => evalFq2_fq2Frob h ha _, fun hk => by rw [hk]; exact fq2Frob_zero ha⟩,
    fun k => unary_of fq6Elem_form fq6Elem_form (fq6Frob params k.toNat) (fun _ _ _ => rfl) fun a ha =>
      ⟨fq6Frob_reduced one_lt_q ha _,
        fun _ _ u v _ h => (congrArg (evalFq6 u v) (fq6Frob_mod _ a)).trans (evalFq6_fq6Frob h ha _),
        fun _ _ _ _ _ h => evalFq6_fq6Frob h ha _, fun hk => by rw [hk]; exact fq6Frob_zero ha⟩,
    fun k => unary_of fq12Elem_form fq12Elem_form (fq12Frob params k.toNat) (fun _ _ _ => rfl) fun a ha =>
      ⟨fq12Frob_reduced one_lt_q ha _,
        fun _ _ u v w h => (congrArg (evalFq12 u v w) (fq12Frob_mod _ a)).trans (evalFq12_fq12Frob h ha _),
        fun _ _ _ _ _ h => evalFq12_fq12Frob h ha _, fun hk => by rw [hk]; exact fq12Frob_zero ha⟩⟩

end Sys2Proof.Machine
end

section
/-! The square root (47_sqrt.md R300 to R305) and the point decode (44_curve_group.md R253): the loops end, the exponent they
collect is below `2^n`, and it is even for a residue. -/

namespace Sys2Proof.Machine

open Config

/-! ### The element `g` (R300) -/

/-- The conditions of R7 WF2, WF3 on the constants of one field, as equations in the field. -/
structure RootParams (f : PrimeParams) : Prop where
  prime : f.modulus.Prime
  odd : f.modulus % 2 = 1
  pos : 1 ≤ f.twoAdicity
  split : f.modulus - 1 = 2 ^ f.twoAdicity * f.t
  t_odd : f.t % 2 = 1
  half : rootGenerator f ^ 2 ^ (f.twoAdicity - 1) = -1
  length : f.powersOfG.length = f.twoAdicity - 1
  entry : ∀ j < f.twoAdicity - 1, ((f.powersOfG.getD j 0 : Nat) : ZMod f.modulus) = rootGenerator f ^ 2 ^ j

theorem half_eq {f : PrimeParams} (hpos : 1 ≤ f.twoAdicity) (hsplit : f.modulus - 1 = 2 ^ f.twoAdicity * f.t) :
    (f.modulus - 1) / 2 = 2 ^ (f.twoAdicity - 1) * f.t := by
  obtain ⟨n, hn⟩ := Nat.exists_eq_add_of_le' hpos
  rw [hsplit, hn, Nat.add_sub_cancel, pow_succ', mul_assoc, Nat.mul_div_cancel_left _ two_pos]

/-- Well-formed constants meet them, by Euler's criterion for the generator. -/
theorem rootParams_of_wellFormed {width : Nat} {f : PrimeParams} (hf : f.WellFormed width) : RootParams f := by
  have hprime : Fact f.modulus.Prime := ⟨hf.prime⟩
  have hm := hf.prime.one_lt
  refine ⟨hf.prime, hf.odd, hf.twoAdicity_pos, hf.split, hf.t_odd, ?_, by rw [hf.powers]; simp, fun j hj => ?_⟩
  · have hns : ¬ IsSquare (f.generator : ZMod f.modulus) := fun ⟨x, hx⟩ => by
      refine hf.nonResidue x.val x.val_lt ?_
      rw [eq_iff_cast_eq (mulMod_lt hf.prime.pos _ _) hf.generator_lt, cast_mulMod_self, ZMod.natCast_zmod_val, hx]
    have h0 : (f.generator : ZMod f.modulus) ≠ 0 := fun h0 => hns (h0 ▸ IsSquare.zero)
    have heuler := ZMod.pow_div_two_eq_neg_one_or_one f.modulus h0
    have hexp : f.modulus / 2 = f.t * 2 ^ (f.twoAdicity - 1) := by
      rw [mul_comm, ← half_eq hf.twoAdicity_pos hf.split]
      have := hf.odd
      omega
    rw [rootGenerator, ← pow_mul, ← hexp]
    exact heuler.resolve_left (mt (ZMod.euler_criterion f.modulus h0).mpr hns)
  · rw [hf.powers, getD_range_map _ _ hj, cast_powMod_self, cast_powMod_self, rootGenerator]

/-! ### `find` (R302) -/

section
variable {m : Nat}

/-- `m − 1` is `−1`. -/
theorem cast_eq_neg_one_iff (hm : 0 < m) {μ : Nat} (hμ : μ < m) : μ = m - 1 ↔ (μ : ZMod m) = -1 := by
  rw [eq_iff_cast_eq hμ (by omega), Nat.cast_sub hm, modulus_cast_self, Nat.cast_one, zero_sub]

/-- The loop stops at a number of squarings that reaches `−1`, if there is one in its range. -/
theorem findLoop_eq (hm : 0 < m) {fuel μ j : Nat} (i : Nat) (hμ : μ < m) (hj : j < fuel)
    (h : (μ : ZMod m) ^ 2 ^ j = -1) : ∃ k, findLoop m fuel μ i = some (i + k) ∧ (μ : ZMod m) ^ 2 ^ k = -1 := by
  induction fuel generalizing μ i j with
  | zero => omega
  | succ fuel ih =>
    rw [findLoop]
    by_cases hstop : μ = m - 1
    · exact ⟨0, by rw [if_pos hstop, add_zero], by rw [pow_zero, pow_one, (cast_eq_neg_one_iff hm hμ).mp hstop]⟩
    · have hsquare (k : Nat) : ((mulMod m μ μ : Nat) : ZMod m) ^ 2 ^ k = (μ : ZMod m) ^ 2 ^ (k + 1) := by
        rw [cast_mulMod_self, ← sq, ← pow_mul, ← pow_succ']
      cases j with
      | zero => exact absurd ((cast_eq_neg_one_iff hm hμ).mpr (by simpa using h)) hstop
      | succ j =>
        obtain ⟨k, hk, hpow⟩ := ih (i + 1) (mulMod_lt hm μ μ) (Nat.lt_of_succ_lt_succ hj) ((hsquare j).trans h)
        exact ⟨k + 1, by rw [if_neg hstop, hk, Nat.add_assoc, Nat.add_comm 1 k], (hsquare k).symm.trans hpow⟩

/-- An element of order `2^(k+1)` at most, other than 1, reaches `−1` after at most `k` squarings. -/
theorem exists_pow_eq_neg_one {K : Type} [Field K] {d : K} {k : Nat} (h : d ^ 2 ^ (k + 1) = 1) (hd : d ≠ 1) :
    ∃ j ≤ k, d ^ 2 ^ j = -1 := by
  induction k with
  | zero =>
    rw [zero_add, pow_one, sq, mul_self_eq_one_iff] at h
    exact ⟨0, le_rfl, by rw [pow_zero, pow_one, h.resolve_left hd]⟩
  | succ k ih =>
    rw [pow_succ 2 (k + 1), pow_mul, sq, mul_self_eq_one_iff] at h
    rcases h with hone | hneg
    · obtain ⟨j, hj, hpow⟩ := ih hone
      exact ⟨j, hj.trans k.le_succ, hpow⟩
    · exact ⟨k + 1, le_rfl, hneg⟩

/-- The number of squarings that reaches `−1` is below the order. -/
theorem lt_of_pow_eq_neg_one {K : Type} [Field K] (hne : (-1 : K) ≠ 1) {d : K} {i k : Nat} (hone : d ^ 2 ^ k = 1)
    (hneg : d ^ 2 ^ i = -1) : i < k := by
  by_contra hle
  obtain ⟨l, rfl⟩ := Nat.exists_eq_add_of_le (Nat.le_of_not_lt hle)
  rw [pow_add, pow_mul, hone, one_pow] at hneg
  exact hne hneg.symm

end

/-! ### `eval` (R303) -/

section
variable {f : PrimeParams} (hf : RootParams f)
include hf

theorem RootParams.neg_one_ne_one : (-1 : ZMod f.modulus) ≠ 1 := by
  have : Fact (2 < f.modulus) := ⟨by have := hf.prime.two_le; have := hf.odd; omega⟩
  exact ZMod.neg_one_ne_one

/-- One pass multiplies by the power of `g` it counts. -/
theorem RootParams.cast_evalPass {δ i : Nat} (hδ : δ < f.modulus) (hi : i < f.twoAdicity) :
    ((evalPass f δ i : Nat) : ZMod f.modulus) = δ * rootGenerator f ^ 2 ^ (f.twoAdicity - 1 - i) := by
  rw [evalPass]
  split_ifs with h0
  · rw [cast_mulMod_self, hf.entry _ (by omega)]
  · obtain rfl : i = 0 := by omega
    rw [Nat.sub_zero, hf.half, Nat.cast_sub hδ.le, modulus_cast_self]
    ring

theorem RootParams.evalPass_lt {δ i : Nat} (h0 : 0 < δ) : evalPass f δ i < f.modulus := by
  rw [evalPass]
  split_ifs
  · exact mulMod_lt hf.prime.pos _ _
  · have := hf.prime.pos
    omega

/-- A reduced number is 1 when it is so in the field. -/
theorem RootParams.eq_one_iff {δ : Nat} (hδ : δ < f.modulus) : δ = 1 ↔ (δ : ZMod f.modulus) = 1 := by
  rw [eq_iff_cast_eq hδ hf.prime.one_lt, Nat.cast_one]

/-- A pass on an element other than 1 lowers the bound `2^(k+1)` on its order to `2^i`, `i` the answer of `find`. -/
theorem RootParams.exists_pass {k δ : Nat} (hδ : δ < f.modulus) (h1 : δ ≠ 1) (hk : k + 1 ≤ f.twoAdicity)
    (hord : (δ : ZMod f.modulus) ^ 2 ^ (k + 1) = 1) :
    ∃ i ≤ k, findOrder f δ = some i ∧ evalPass f δ i < f.modulus ∧
      ((evalPass f δ i : Nat) : ZMod f.modulus) = δ * rootGenerator f ^ 2 ^ (f.twoAdicity - 1 - i) ∧
      ((evalPass f δ i : Nat) : ZMod f.modulus) ^ 2 ^ i = 1 := by
  have hprime : Fact f.modulus.Prime := ⟨hf.prime⟩
  obtain ⟨j, hj, hneg⟩ := exists_pow_eq_neg_one hord (mt (hf.eq_one_iff hδ).mpr h1)
  obtain ⟨i, hfind, hi⟩ := findLoop_eq hf.prime.pos 0 hδ (show j < f.twoAdicity by omega) hneg
  have hik : i < k + 1 := lt_of_pow_eq_neg_one hf.neg_one_ne_one hord hi
  have hpos : 0 < δ := Nat.pos_of_ne_zero fun h0 => by
    rw [h0, Nat.cast_zero, zero_pow (by positivity)] at hi
    exact neg_ne_zero.mpr one_ne_zero hi.symm
  have hcast := hf.cast_evalPass hδ (show i < f.twoAdicity by omega)
  refine ⟨i, by omega, by rw [findOrder, hfind, zero_add], hf.evalPass_lt hpos, hcast, ?_⟩
  rw [hcast, mul_pow, hi, ← pow_mul, ← pow_add, show f.twoAdicity - 1 - i + i = f.twoAdicity - 1 by omega, hf.half]
  ring

omit hf in
theorem evalLoop_one (fuel s : Nat) : evalLoop f fuel 1 s = some s := by
  cases fuel <;> rw [evalLoop, if_pos rfl]

omit hf in
theorem evalLoop_pass (fuel s : Nat) {δ i : Nat} (h1 : δ ≠ 1) (hi : findOrder f δ = some i) :
    evalLoop f (fuel + 1) δ s = evalLoop f fuel (evalPass f δ i) (s + 2 ^ (f.twoAdicity - 1 - i)) := by
  rw [evalLoop, if_neg h1, hi]

omit hf in
/-- The powers that a pass counts: the next ones lie above it, and all of them below `2^n`. -/
theorem two_pow_pass {n k i e : Nat} (hk : k + 1 ≤ n) (hi : i ≤ k) (hle : e + 2 ^ (n - i) ≤ 2 ^ n)
    (hdvd : 2 ^ (n - i) ∣ e) : 2 ^ (n - 1 - i) + e + 2 ^ (n - (k + 1)) ≤ 2 ^ n ∧
      2 ^ (n - (k + 1)) ∣ 2 ^ (n - 1 - i) + e := by
  have hdouble : 2 ^ (n - i) = 2 * 2 ^ (n - 1 - i) := by rw [← pow_succ', show n - 1 - i + 1 = n - i by omega]
  have hpow : 2 ^ (n - (k + 1)) ≤ 2 ^ (n - 1 - i) := Nat.pow_le_pow_right two_pos (by omega)
  exact ⟨by omega, dvd_add (pow_dvd_pow 2 (by omega)) (dvd_trans (pow_dvd_pow 2 (by omega)) hdvd)⟩

/-- From `δ` of order `2^k` at most, `eval` collects a multiple `e` of `2^(n−k)` below `2^n` with `δ · g^e = 1`. -/
theorem RootParams.evalLoop_eq {fuel k δ : Nat} (s : Nat) (hδ : δ < f.modulus) (hfuel : k ≤ fuel) (hk : k ≤ f.twoAdicity)
    (hord : (δ : ZMod f.modulus) ^ 2 ^ k = 1) :
    ∃ e, evalLoop f fuel δ s = some (s + e) ∧ (δ : ZMod f.modulus) * rootGenerator f ^ e = 1 ∧
      e + 2 ^ (f.twoAdicity - k) ≤ 2 ^ f.twoAdicity ∧ 2 ^ (f.twoAdicity - k) ∣ e := by
  by_cases h1 : δ = 1
  · subst h1
    refine ⟨0, evalLoop_one fuel s, by rw [Nat.cast_one, one_mul, pow_zero], ?_, dvd_zero _⟩
    rw [zero_add]
    exact Nat.pow_le_pow_right two_pos (Nat.sub_le _ _)
  · obtain ⟨k, rfl⟩ := Nat.exists_eq_succ_of_ne_zero
      (show k ≠ 0 from fun h0 => h1 ((hf.eq_one_iff hδ).mpr (by simpa [h0] using hord)))
    obtain ⟨i, hik, hfind, hlt, hcast, hnext⟩ := hf.exists_pass hδ h1 hk hord
    cases fuel with
    | zero => omega
    | succ fuel =>
      obtain ⟨e, hloop, hprod, hle, hdvd⟩ := RootParams.evalLoop_eq (fuel := fuel) (s + 2 ^ (f.twoAdicity - 1 - i)) hlt
        (by omega) (by omega) hnext
      obtain ⟨hle', hdvd'⟩ := two_pow_pass hk hik hle hdvd
      refine ⟨2 ^ (f.twoAdicity - 1 - i) + e, ?_, ?_, hle', hdvd'⟩
      · rw [evalLoop_pass fuel s h1 hfind, hloop, Nat.add_assoc]
      · rw [pow_add, ← mul_assoc, ← hcast, hprod]
termination_by fuel

end

/-! ### The table product (R304) -/

/-- The entries chosen by the bits of `h` from bit `j` on multiply to the power by those bits. -/
theorem cast_tableProduct {m : Nat} (g : ZMod m) (h : Nat) (L : List Nat) (j : Nat)
    (hL : ∀ i < L.length, ((L.getD i 0 : Nat) : ZMod m) = g ^ 2 ^ (j + i)) :
    ((tableProduct m h j L : Nat) : ZMod m) = g ^ (2 ^ j * (h / 2 ^ j % 2 ^ L.length)) := by
  induction L generalizing j with
  | nil => simp [tableProduct, Nat.mod_one]
  | cons x xs ih =>
    have htail := ih (j + 1) fun i hi => by
      have hentry := hL (i + 1) (by simpa using hi)
      rwa [List.getD_cons_succ, ← Nat.add_assoc, Nat.add_right_comm] at hentry
    have hhead : (x : ZMod m) = g ^ 2 ^ j := hL 0 (by simp)
    have hbits : h / 2 ^ j % 2 ^ (xs.length + 1) =
        h / 2 ^ j % 2 + 2 * (h / 2 ^ (j + 1) % 2 ^ xs.length) := by
      rw [pow_succ', Nat.mod_mul, Nat.div_div_eq_div_mul, ← pow_succ]
    have hexp : 2 ^ j * (h / 2 ^ j % 2 ^ (xs.length + 1)) =
        2 ^ j * (h / 2 ^ j % 2) + 2 ^ (j + 1) * (h / 2 ^ (j + 1) % 2 ^ xs.length) := by
      rw [hbits, pow_succ]
      ring
    rw [tableProduct, List.length_cons, hexp, pow_add, ← htail, Nat.testBit_eq_decide_div_mod_eq]
    rcases Nat.mod_two_eq_zero_or_one (h / 2 ^ j) with hb | hb
    · simp [hb]
    · simp [hb, cast_mulMod_self, hhead]

/-! ### The root (R304) -/

section
variable {f : PrimeParams} (hf : RootParams f) {a : Nat}
include hf

/-- For a non-zero square `eval` gives an even exponent, and the answer is the root R304 fixes. -/
theorem RootParams.sqrtMod_residue (h : legendre f.modulus a = .residue) :
    ∃ y s, sqrtMod f a = .root y ∧ s < 2 ^ f.twoAdicity ∧ s % 2 = 0 ∧
      (a : ZMod f.modulus) ^ f.t * rootGenerator f ^ s = 1 ∧
      (y : ZMod f.modulus) = a * (a : ZMod f.modulus) ^ ((f.t - 1) / 2) * rootGenerator f ^ (s / 2) := by
  obtain ⟨n, hn⟩ := Nat.exists_eq_add_of_le' hf.pos
  have hx : ((mulMod f.modulus (mulMod f.modulus a (powMod f.modulus a ((f.t - 1) / 2)))
      (powMod f.modulus a ((f.t - 1) / 2)) : Nat) : ZMod f.modulus) = (a : ZMod f.modulus) ^ f.t := by
    have ht : f.t = 1 + (f.t - 1) / 2 + (f.t - 1) / 2 := by have := hf.t_odd; omega
    conv_rhs => rw [ht, pow_add, pow_add, pow_one]
    rw [cast_mulMod_self, cast_mulMod_self, cast_powMod_self]
  have hord : ((mulMod f.modulus (mulMod f.modulus a (powMod f.modulus a ((f.t - 1) / 2)))
      (powMod f.modulus a ((f.t - 1) / 2)) : Nat) : ZMod f.modulus) ^ 2 ^ n = 1 := by
    have hres := (legendre_eq_residue_iff hf.prime.one_lt a).mp h
    rwa [half_eq hf.pos hf.split, hn, Nat.add_sub_cancel, mul_comm, pow_mul, ← hx] at hres
  obtain ⟨s, hloop, hprod, hlt, hdvd⟩ := hf.evalLoop_eq 0 (mulMod_lt hf.prime.pos _ _)
    (show n ≤ f.twoAdicity by omega) (by omega) hord
  rw [zero_add] at hloop
  have heven : s % 2 = 0 := Nat.mod_eq_zero_of_dvd (by rwa [hn, Nat.add_sub_cancel_left, pow_one] at hdvd)
  have hpos : 0 < 2 ^ (f.twoAdicity - n) := by positivity
  have hbelow : s < 2 ^ f.twoAdicity := by omega
  refine ⟨_, s, by rw [sqrtMod, h]; simp only; rw [evalLog, hloop], hbelow, heven, by rw [← hx, hprod], ?_⟩
  have htable := cast_tableProduct (rootGenerator f) (s / 2) f.powersOfG 0 fun i hi => by
    rw [zero_add, hf.entry i (hf.length ▸ hi)]
  have hhalf : s / 2 < 2 ^ (f.twoAdicity - 1) := by
    rw [hn, Nat.add_sub_cancel]
    rw [hn, pow_succ] at hbelow
    omega
  rw [hf.length, pow_zero, Nat.div_one, one_mul, Nat.mod_eq_of_lt hhalf] at htable
  rw [cast_mulMod_self, cast_mulMod_self, cast_powMod_self, htable]

/-- The answer as a value or `None`: it is there, and it is `None` for a non-residue alone (R304, R307). -/
theorem RootParams.sqrtMod_cases (ha : a < f.modulus) :
    (a = 0 ∧ sqrtMod f a = .root 0) ∨ (a ≠ 0 ∧ IsSquare (a : ZMod f.modulus) ∧ legendre f.modulus a = .residue) ∨
      (¬ IsSquare (a : ZMod f.modulus) ∧ sqrtMod f a = .nonResidue) := by
  have hzero := legendre_eq_zero_iff_eq_zero hf.prime hf.odd ha
  have hres := legendre_eq_residue_iff_isSquare hf.prime hf.odd ha
  cases hl : legendre f.modulus a with
  | zero =>
    have h0 := hzero.mp hl
    exact .inl ⟨h0, by rw [sqrtMod, hl, h0]⟩
  | residue =>
    obtain ⟨h0, hsq⟩ := hres.mp hl
    exact .inr (.inl ⟨h0, hsq, rfl⟩)
  | nonResidue =>
    have h0 : a ≠ 0 := fun h0 => by rw [hzero.mpr h0] at hl; cases hl
    exact .inr (.inr ⟨fun hsq => by (rw [hres.mpr ⟨h0, hsq⟩] at hl; cases hl), by rw [sqrtMod, hl]⟩)

end

/-- The value that R304 fixes is a root. -/
theorem root_sq {K : Type} [Field K] {a g : K} {t s : Nat} (ht : t % 2 = 1) (hs : s % 2 = 0) (h : a ^ t * g ^ s = 1) :
    (a * a ^ ((t - 1) / 2) * g ^ (s / 2)) ^ 2 = a := by
  calc (a * a ^ ((t - 1) / 2) * g ^ (s / 2)) ^ 2
      = a * (a ^ (1 + (t - 1) / 2 * 2) * g ^ (s / 2 * 2)) := by ring
    _ = a * (a ^ t * g ^ s) := by rw [show 1 + (t - 1) / 2 * 2 = t by omega, show s / 2 * 2 = s by omega]
    _ = a := by rw [h, mul_one]

/-- What `sqrt` answers, as a value or `None`. -/
def rootOption : SqrtResult → Option Nat
  | .root y => some y
  | .nonResidue => none
  | .hang => none

/-- The root that R304 fixes, of the two. -/
def ChosenRoot (f : PrimeParams) (a y : Nat) : Prop :=
  (y : ZMod f.modulus) ^ 2 = a ∧
    (a ≠ 0 → ∃ s < 2 ^ f.twoAdicity, s % 2 = 0 ∧ (a : ZMod f.modulus) ^ f.t * rootGenerator f ^ s = 1 ∧
      (y : ZMod f.modulus) = a * (a : ZMod f.modulus) ^ ((f.t - 1) / 2) * rootGenerator f ^ (s / 2))

/-- The loops end, a non-residue has no root, and any other operand the root of R304. -/
theorem RootParams.sqrtMod_spec {f : PrimeParams} (hf : RootParams f) {a : Nat} (ha : a < f.modulus) :
    sqrtMod f a ≠ .hang ∧ (rootOption (sqrtMod f a) = none ↔ ¬ IsSquare (a : ZMod f.modulus)) ∧
      ∀ y ∈ rootOption (sqrtMod f a), ChosenRoot f a y := by
  have hprime : Fact f.modulus.Prime := ⟨hf.prime⟩
  rcases hf.sqrtMod_cases ha with ⟨rfl, h⟩ | ⟨h0, hsq, hres⟩ | ⟨hns, h⟩
  · rw [h]
    exact ⟨nofun, by simp [rootOption], fun y hy => by
      obtain rfl := Option.some.inj hy
      exact ⟨by simp, fun hne => absurd rfl hne⟩⟩
  · obtain ⟨y, s, h, hlt, heven, hprod, hy⟩ := hf.sqrtMod_residue hres
    rw [h]
    exact ⟨nofun, by simp [rootOption, hsq], fun z hz => by
      obtain rfl := Option.some.inj hz
      exact ⟨by rw [hy, root_sq hf.t_odd heven hprod], fun _ => ⟨s, hlt, heven, hprod, hy⟩⟩⟩
  · rw [h]
    exact ⟨nofun, by simp [rootOption, hns], nofun⟩

/-! ### The commands -/

theorem q_rootParams : RootParams params.fq := rootParams_of_wellFormed params_wellFormed.fq
theorem r_rootParams : RootParams params.fr := rootParams_of_wellFormed params_wellFormed.fr

theorem storeRoot_eq {α : Type} (t : ElemTy α) (s : State) (rd : CellIdx) (mk : Nat → α) {r : SqrtResult}
    (hr : r ≠ .hang) : storeRoot t s rd mk r = .next (storeOption t s rd ((rootOption r).map mk)) := by
  cases r with
  | root y => rfl
  | nonResidue => rfl
  | hang => exact absurd rfl hr

theorem rootOption_eq_some {r : SqrtResult} {y : Nat} : rootOption r = some y ↔ r = .root y := by
  cases r <;> simp [rootOption]

/-- `sqrt` of a held operand. -/
theorem RootParams.sqrtCommand_next {f : PrimeParams} (hf : RootParams f) {s : State} {rd ra : CellIdx} {a : Nat}
    (hs : s.flt = false) (ha : a < f.modulus) (h1 : holds s ra ((primeForm f.modulus).cells a))
    (hd : fits rd (primeForm f.modulus).width) :
    sqrtCommand f rd ra s = .next (optionState (primeForm f.modulus) s rd (rootOption (sqrtMod f a))) := by
  obtain ⟨hend, -, -⟩ := hf.sqrtMod_spec ha
  have hform := primeElem_form f.modulus
  have hpass : violation [elemSource (primeElem f.modulus) ra] [elemDest (primeElem f.modulus) rd] s.cells = none :=
    violation_eq_none_iff.mpr ⟨List.forall_mem_singleton.mpr (elem_checks hform ha h1),
      List.forall_mem_singleton.mpr (dest_checks hform hd)⟩
  rw [sqrtCommand, command_run hs hpass, loadElem_held hform h1, storeRoot_eq _ _ _ _ hend, storeOption_eq hform,
    Option.map_id_fun, id]

/-- A square root command, from what `sqrt` answers. -/
theorem RootParams.sqrt_partialUnary {f : PrimeParams} (hf : RootParams f) {mk : CellIdx → CellIdx → Instr}
    (hexec : ∀ rd ra s, exec (mk rd ra) s = sqrtCommand f rd ra s) :
    PartialUnary (primeForm f.modulus) (primeForm f.modulus) mk
      fun a o => (o = none ↔ ¬ IsSquare (a : ZMod f.modulus)) ∧ ∀ y ∈ o, ChosenRoot f a y := fun s rd ra a hs ha h1 hd => by
  obtain ⟨-, hnone, hroot⟩ := hf.sqrtMod_spec ha
  exact ⟨_, fun y hy => sqrtMod_lt hf.prime.one_lt ha (rootOption_eq_some.mp hy), ⟨hnone, hroot⟩, by
    rw [hexec, hf.sqrtCommand_next hs ha h1 hd]⟩

/-- Settles O41: `eval` collects an even exponent for a residue, and its half gives the root. -/
theorem sqrtResults : Obligations.SqrtResults :=
  ⟨q_rootParams.sqrt_partialUnary fun _ _ _ => rfl, r_rootParams.sqrt_partialUnary fun _ _ _ => rfl⟩

/-- The right side of the curve equation. -/
theorem cast_curveRhs (x : Nat) : ((curveRhs params x : Nat) : Coord) =
    (x : Coord) ^ 3 + params.coeffA * x + params.coeffB := by
  simp only [curveRhs, cast_addMod_self, cast_mulMod_self]
  ring

/-- The two roots as integers: `y` and `q − y`, of which one is below half of `q`. -/
theorem decodedPoint_choice {x y : Nat} (hy : y < params.q) (larger : Bool) :
    (decodedPoint params x larger y).y < params.q ∧
    (((decodedPoint params x larger y).y : Nat) : Coord) ^ 2 = (y : Coord) ^ 2 ∧
    (larger = false → 2 * (decodedPoint params x larger y).y < params.q) ∧
    (larger = true → (decodedPoint params x larger y).y = 0 ∨ params.q < 2 * (decodedPoint params x larger y).y) := by
  have hodd : params.q % 2 = 1 := params_wellFormed.fq.odd
  have hneg : negMod params.q y = if y = 0 then 0 else params.q - y := by
    split_ifs with h0
    · rw [h0, negMod_zero]
    · exact Nat.mod_eq_of_lt (by omega)
  have hsq : ((negMod params.q y : Nat) : Coord) ^ 2 = (y : Coord) ^ 2 := by rw [cast_negMod_self hy, neg_sq]
  have hlt := negMod_lt (m := params.q) q_pos y
  have hfield : (decodedPoint params x larger y).y =
      if larger then max y (negMod params.q y) else min y (negMod params.q y) := rfl
  rw [hfield]
  refine ⟨?_, ?_, ?_, ?_⟩
  · cases larger <;> simp [hy, hlt]
  · cases larger
    · rcases min_choice y (negMod params.q y) with hc | hc <;> simp [hc, hsq]
    · rcases max_choice y (negMod params.q y) with hc | hc <;> simp [hc, hsq]
  · rintro rfl
    rw [if_neg Bool.false_ne_true, hneg]
    split_ifs <;> omega
  · rintro rfl
    rw [if_pos rfl, hneg]
    split_ifs <;> omega

/-- `pdec` of a held operand. -/
theorem pdec_next {s : State} {rd ra : CellIdx} {sign : Imm} {x : Nat} (hsign : sign.toNat ≤ 1) (hs : s.flt = false)
    (hx : x < params.q) (h1 : holds s ra ((primeForm params.q).cells x)) (hd : fits rd affForm.width) :
    exec (.pdec rd ra sign) s = .next (optionState affForm s rd
      ((rootOption (sqrtMod params.fq (curveRhs params x))).map (decodedPoint params x (sign.getLsbD 0)))) := by
  obtain ⟨hend, -, -⟩ := q_rootParams.sqrtMod_spec (a := curveRhs params x) (addMod_lt q_pos _ _)
  have hpass : violation [elemSource (primeElem params.q) ra] [elemDest (affElem params) rd] s.cells = none :=
    violation_eq_none_iff.mpr ⟨List.forall_mem_singleton.mpr (elem_checks (primeElem_form _) hx h1),
      List.forall_mem_singleton.mpr (dest_checks affElem_form hd)⟩
  show pdecCommand params rd ra sign s = _
  rw [pdecCommand, if_pos hsign, command_run hs hpass, loadElem_held (primeElem_form _) h1, storeRoot_eq _ _ _ _ hend,
    storeOption_eq affElem_form]

/-- Settles O53: a root of the right side, and the choice between it and its negative. -/
theorem pdecResults : Obligations.PdecResults := fun sign hsign s rd ra x hs hx h1 hd => by
  have hrhs : curveRhs params x < params.q := addMod_lt q_pos _ _
  obtain ⟨-, hnone, hroot⟩ := q_rootParams.sqrtMod_spec hrhs
  rw [cast_curveRhs] at hnone
  refine ⟨_, fun P hP => ?_, ⟨Option.map_eq_none_iff.trans hnone, fun P hP => ?_⟩, pdec_next hsign hs hx h1 hd⟩
  · obtain ⟨y, hy, rfl⟩ := Option.map_eq_some_iff.mp hP
    exact decodedPoint_reduced one_lt_q hx (sqrtMod_lt one_lt_q hrhs (rootOption_eq_some.mp hy)) _
  · obtain ⟨y, hy, rfl⟩ := Option.map_eq_some_iff.mp hP
    obtain ⟨hsq, -⟩ := hroot y hy
    obtain ⟨-, hsame, hsmall, hlarge⟩ := decodedPoint_choice (x := x)
      (sqrtMod_lt one_lt_q hrhs (rootOption_eq_some.mp hy)) (sign.getLsbD 0)
    exact ⟨rfl, rfl, by rw [hsame, ← cast_curveRhs]; exact hsq, fun h0 => hsmall (by rw [h0]; rfl),
      fun h1 => hlarge (by rw [h1]; rfl)⟩

end Sys2Proof.Machine
end

section
/-! Every command completes (60_exceptions.md R330, 70_reset_and_hazards.md R371), and what a transaction answers
(20_memory.md R32, R46, 60_exceptions.md R336, 70_reset_and_hazards.md R360). -/

namespace Sys2Proof.Machine

open Config

/-! ### What a command does after its checks has a next state -/

/-- The effect of the command has a next state once its checks have passed and its payload is there. -/
def Completes (i : Instr) (e : State → Result) : Prop :=
  ∀ s, violation (instrSources i) (destOf i) s.cells = none → (takesPayload i = true → s.payload.length = params.limbs) →
    ∃ t, e s = .next t

theorem storeRoot_next {α : Type} (t : ElemTy α) (s : State) (rd : CellIdx) (mk : Nat → α) {f : PrimeParams}
    (hf : RootParams f) {a : Nat} (ha : a < f.modulus) : ∃ u, storeRoot t s rd mk (sqrtMod f a) = .next u := by
  obtain ⟨hend, -, -⟩ := hf.sqrtMod_spec ha
  exact ⟨_, storeRoot_eq t s rd mk hend⟩

/-- A loop that might not end stands in the square roots alone, and there it ends. -/
theorem exec_command_completes (i : Instr) (hi : i.wellFormed = true) :
    ∃ e : State → Result, (∀ s, exec i s = command (instrSources i) (destOf i) s (e s)) ∧ Completes i e := by
  have hread {f : PrimeParams} {ra : CellIdx} {dsts : List Dest} {s : State}
      (h : violation [elemSource (primeElem f.modulus) ra] dsts s.cells = none) :
      loadElem (primeElem f.modulus) s ra < f.modulus :=
    loadElem_valid (primeElem_form _) ((violation_eq_none_iff.mp h).1 _ (List.mem_singleton.mpr rfl))
  cases i with
  | ld rd => exact ⟨_, fun _ => rfl, fun s _ hp => ⟨_, if_pos (hp rfl)⟩⟩
  | sqrtFq rd ra => exact ⟨_, fun _ => rfl, fun s hv _ => storeRoot_next _ _ _ _ q_rootParams (hread hv)⟩
  | sqrtFr rd ra => exact ⟨_, fun _ => rfl, fun s hv _ => storeRoot_next _ _ _ _ r_rootParams (hread hv)⟩
  | pdec rd ra sign =>
    have hsign : sign.toNat ≤ 1 := by simpa [Instr.wellFormed, signSelectorOk] using hi
    exact ⟨_, fun s => if_pos hsign, fun s _ _ => storeRoot_next _ _ _ _ q_rootParams (addMod_lt q_pos _ _)⟩
  | _ => exact ⟨_, fun _ => rfl, fun _ _ _ => ⟨_, rfl⟩⟩

section
variable {i : Instr} {s : State}

/-- A command that passes its checks has a next state. -/
theorem exec_next_of_passesChecks (hs : s.flt = false) (hp : passesChecks i s.cells)
    (hpay : takesPayload i = true → s.payload.length = params.limbs) : ∃ t, exec i s = .next t := by
  have hi : i.wellFormed = true := Bool.eq_true_of_not_eq_false (hp .illegal)
  obtain ⟨e, he, hends⟩ := exec_command_completes i hi
  have hv := violation_of_passesChecks hp
  rw [he, command_run hs hv]
  exact hends s hv hpay

/-- With its payload every command has a next state: it is not run, it takes its fault, or it completes. -/
theorem exec_total (hpay : takesPayload i = true → s.payload.length = params.limbs) : ∃ t, exec i s = .next t := by
  cases hs : s.flt with
  | true => exact ⟨s, exec_refused i hs⟩
  | false =>
    by_cases hp : passesChecks i s.cells
    · exact exec_next_of_passesChecks hs hp hpay
    · obtain ⟨c, hc⟩ := exists_firstViolation hp
      exact ⟨_, exec_of_firstViolation hs hc⟩

end

/-- Settles O18: after passed checks a command has a next state, and it does not touch the latch. -/
theorem everyCommandCompletes : Obligations.EveryCommandCompletes := fun _ _ hs hp hpay => by
  obtain ⟨t, ht⟩ := exec_next_of_passesChecks hs hp hpay
  exact ⟨t, ht, exec_flt_of_passesChecks hs hp ht⟩

/-! ### Transactions (20_memory.md R32, R33) -/

section
variable {s t : State} {w : CmdWord} {payload : List Limb} {rest : List HostEvent} {i : Instr}

/-- The host's duty, by the decoded command. -/
theorem payloadLegal_iff (limbs : Nat) (h : decode w = .ok i) :
    payloadLegal limbs w payload = true ↔ payload.length = if takesPayload i then limbs else 0 := by
  rw [payloadLegal, h]
  cases i with
  | ld rd => simp [takesPayload]
  | _ => exact List.isEmpty_iff_length_eq_zero

theorem payloadLegal_of_error (limbs : Nat) {e : DecodeError} (h : decode w = .error e) :
    payloadLegal limbs w [] = true := by
  rw [payloadLegal, h]
  rfl

theorem serve_error {e : DecodeError} (hs : s.flt = false) (h : decode w = .error e) :
    serve w s = .next (takeFault .illegal s).respond := by
  rw [serve, if_neg (by simp [hs]), h]

theorem serve_ok (hs : s.flt = false) (h : decode w = .ok i) : serve w s = respondTo (exec i s) := by
  rw [serve, if_neg (by simp [hs]), h]

/-- A disciplined transaction is answered from the state that its word left, and that state still has the events the host
has not raised yet. -/
theorem serve_begin_next (s : State) (rest : List HostEvent) (hp : payloadLegal params.limbs w payload = true) :
    ∃ u : State, serve w (s.begin w payload rest) = .next u.respond ∧ u.inbox = rest := by
  cases hs : s.flt with
  | true => exact ⟨_, serve_latched w (s := s.begin w payload rest) hs, rfl⟩
  | false =>
    cases hd : decode w with
    | error e => exact ⟨_, serve_error (s := s.begin w payload rest) hs hd, rfl⟩
    | ok i =>
      have hpay : takesPayload i = true → payload.length = params.limbs := fun ht => by
        have hlen := (payloadLegal_iff params.limbs hd).mp hp
        rwa [ht, if_pos rfl] at hlen
      obtain ⟨u, hu⟩ := exec_total (s := s.begin w payload rest) hpay
      obtain ⟨hin, -⟩ := portFrame i _ _ hu
      exact ⟨u, by rw [serve_ok (s := s.begin w payload rest) hs hd, hu]; rfl, hin⟩

/-- An undisciplined transaction is refused. -/
theorem step_badPayload (hin : s.inbox = .command w payload :: rest)
    (hp : payloadLegal params.limbs w payload = false) : step s = .refused .badPayload := by
  simp [step, transact, hin, hp]

theorem step_reset (hin : s.inbox = .reset :: rest) : step s = .next (resetBlock { s with inbox := rest }) := by
  simp [step, transact, hin]

theorem step_idle (hin : s.inbox = []) : step s = .next s := by
  simp [step, transact, hin]

end

/-- Settles O5: serving a legal word is `exec` and the response. -/
theorem stepRunsDecodedCommand : Obligations.StepRunsDecodedCommand := fun s w payload rest i hin hs hd hlen t ht => by
  have hexec : exec i (s.begin w payload rest) = .next t := ht
  rw [step_command hin ((payloadLegal_iff params.limbs hd).mpr hlen),
    serve_ok (s := s.begin w payload rest) hs hd, hexec]
  rfl

/-- Settles O6: every disciplined transaction ends with its response. -/
theorem everyTransactionAnswered : Obligations.EveryTransactionAnswered := fun s w payload rest hin hp => by
  obtain ⟨u, hu, hrest⟩ := serve_begin_next s rest hp
  exact ⟨u.respond, u.portOut, (step_command hin hp).trans hu, hrest, rfl, rfl, rfl, rfl⟩

/-- Settles O7: an event of any other kind has a next state. -/
theorem badPayloadRefused : Obligations.BadPayloadRefused := by
  refine ⟨fun s w payload rest hin hp => step_badPayload hin hp, fun s r h => ?_⟩
  cases hin : s.inbox with
  | nil =>
    rw [step_idle hin] at h
    cases h
  | cons event rest =>
    cases event with
    | reset =>
      rw [step_reset hin] at h
      cases h
    | command w payload =>
      cases hp : payloadLegal params.limbs w payload with
      | true =>
        obtain ⟨u, hu, -⟩ := serve_begin_next s rest hp
        rw [step_command hin hp, hu] at h
        cases h
      | false =>
        rw [step_badPayload hin hp] at h
        cases h
        exact ⟨rfl, w, payload, rest, rfl, hp⟩

/-! ### Reset (70_reset_and_hazards.md R360, 10_state.md R21) -/

/-- Every field of a zero `STATUS` is zero. -/
theorem fields_of_status_zero {s : State} (h : s.status = 0) :
    s.flt = false ∧ s.fcode = 0 ∧ s.flagT = false ∧ s.flagN = false ∧ s.flagL = 0 := by
  simp [State.flt, State.fcode, State.flagT, State.flagN, State.flagL, h]

/-- Settles O8: the reset state, with the events the host has still to raise. -/
theorem resetEvent : Obligations.ResetEvent := fun s rest hin => by
  obtain ⟨hflt, hcode, hT, hN, hL⟩ := fields_of_status_zero (resetBlock_status { s with inbox := rest })
  exact ⟨_, step_reset hin, readCell_nil, rfl, hflt, hcode, hT, hN, hL, rfl, rfl, rfl, rfl, rfl, rfl⟩

/-- Settles O9: an empty store and a zero `STATUS`. -/
theorem resetState : Obligations.ResetState := by
  obtain ⟨hflt, hcode, hT, hN, hL⟩ := fields_of_status_zero (s := State.reset) rfl
  exact ⟨readCell_nil, rfl, hT, hN, hL, hflt, hcode, rfl⟩

/-! ### Fault entry (60_exceptions.md R335, R336) -/

section
variable {s t : State} {w : CmdWord} {payload : List Limb} {rest : List HostEvent} {c : FaultCode}

/-- A transaction that takes a fault leaves what R336 says. -/
theorem faultEntered_respond (s : State) (w : CmdWord) (payload : List Limb) (rest : List HostEvent) (c : FaultCode) :
    FaultEntered c w rest s (takeFault c (s.begin w payload rest)).respond where
  flt := takeFault_flt ..
  fcode := takeFault_fcode ..
  fcmd := rfl
  cells := rfl
  flagT := takeFault_flagT ..
  flagN := takeFault_flagN ..
  flagL := takeFault_flagL ..
  reserved := takeFault_reserved ..
  response := rfl
  inbox := rfl
  drawn := rfl

/-- A word with a cause takes the fault of that cause. -/
theorem serve_faultCause (hs : s.flt = false) (hc : faultCause w s.cells c) :
    serve w s = .next (takeFault c s).respond := by
  rw [faultCause] at hc
  cases hd : decode w with
  | error e =>
    rw [hd] at hc
    obtain rfl : c = .illegal := hc
    exact serve_error hs hd
  | ok i =>
    rw [hd] at hc
    rw [serve_ok hs hd, exec_of_firstViolation hs hc]
    rfl

/-- A transaction that latches a fault had a cause. -/
theorem faultCause_of_serve (hs : s.flt = false) (h : serve w s = .next t) (ht : t.flt = true) :
    ∃ c, faultCause w s.cells c ∧ t = (takeFault c s).respond := by
  obtain ⟨u, rfl, ⟨hlatched, -⟩ | ⟨-, ⟨e, hd⟩, rfl⟩ | ⟨-, i, hd, hexec⟩⟩ := serve_cases h
  · rw [hs] at hlatched
    cases hlatched
  · exact ⟨.illegal, by rw [faultCause, hd], rfl⟩
  · obtain ⟨c, hc, rfl⟩ := exec_fault_cause hs hexec ht
    exact ⟨c, by rw [faultCause, hd]; exact hc, rfl⟩

end

/-- Settles O12: a cause of a word is taken at once, and only a cause is. -/
theorem faultEntryPrecise : Obligations.FaultEntryPrecise := by
  refine ⟨fun s w payload rest c hin hp hs hc => ?_, fun s t w payload rest hin hs h ht => ?_⟩
  · have hcause : faultCause w (s.begin w payload rest).cells c := hc
    exact ⟨_, (step_command hin hp).trans (serve_faultCause (s := s.begin w payload rest) hs hcause),
      faultEntered_respond s w payload rest c⟩
  · cases hp : payloadLegal params.limbs w payload with
    | true =>
      rw [step_command hin hp] at h
      obtain ⟨c, hc, rfl⟩ := faultCause_of_serve (s := s.begin w payload rest) hs h ht
      exact ⟨c, hc, faultEntered_respond s w payload rest c⟩
    | false =>
      rw [step_badPayload hin hp] at h
      cases h

/-- Settles O16: the cause of an illegal word is `ILLEGAL`, whatever the store. -/
theorem illegalWordFaults : Obligations.IllegalWordFaults := fun s w rest e hin hs hd => by
  have hcause : faultCause w s.cells .illegal := by rw [faultCause, hd]
  obtain ⟨t, ht, hentered⟩ := faultEntryPrecise.1 s w [] rest .illegal hin (payloadLegal_of_error _ hd) hs hcause
  exact ⟨t, ht, hentered.flt, hentered.fcode, hentered.fcmd, hentered.cells⟩

end Sys2Proof.Machine
end

section
/-! The curve commands: the value functions meet the rules R235 to R241, and one shared inversion normalizes a batch
(44_curve_group.md, 45_batch_normalization.md R271, R272). -/

namespace Sys2Proof.Machine

open Config

/-! ### Doubling and addition (R235, R236, R237) -/

section
variable {P Q : Jacobian}

/-- The machine's doubling is R235. -/
theorem jacDouble_rule (hP : P.Reduced params.q) : DoubleRule P (jacDouble params P) := by
  refine ⟨jacDouble_reduced one_lt_q hP, fun h0 => if_pos h0, fun h0 => ?_⟩
  rw [jacDouble, if_neg h0]
  simp only [cast_subMod_self, cast_addMod_self, cast_mulMod_self, cast_sqrMod_self, cast_dblMod_self, mulMod_lt q_pos,
    subMod_lt q_pos, dblMod_lt q_pos]
  refine ⟨?_, ?_, ?_⟩ <;> push_cast <;> ring

/-- Equal integers are equal coordinates. -/
theorem reduced_eq_iff {a b : Nat} (ha : a < params.q) (hb : b < params.q) : a = b ↔ (a : Coord) = b := eq_iff_cast_eq ha hb

/-- The machine's addition is R236. -/
theorem jacAdd_rule (hP : P.Reduced params.q) (hQ : Q.Reduced params.q) : AddRule P Q (jacAdd params P Q) := by
  refine ⟨jacAdd_reduced one_lt_q hP hQ, fun h0 => if_pos h0, fun h0 h1 => by rw [jacAdd, if_neg h0, if_pos h1],
    fun h0 h1 => ?_⟩
  have hequal : (mulMod params.q P.x (sqrMod params.q Q.z) = mulMod params.q Q.x (sqrMod params.q P.z) ∧
      mulMod params.q (mulMod params.q P.y Q.z) (sqrMod params.q Q.z) =
        mulMod params.q (mulMod params.q Q.y P.z) (sqrMod params.q P.z)) ↔
      ((P.x : Coord) * (Q.z : Coord) ^ 2 = Q.x * (P.z : Coord) ^ 2 ∧
        (P.y : Coord) * (Q.z : Coord) ^ 3 = Q.y * (P.z : Coord) ^ 3) := by
    rw [reduced_eq_iff (mulMod_lt q_pos _ _) (mulMod_lt q_pos _ _), reduced_eq_iff (mulMod_lt q_pos _ _) (mulMod_lt q_pos _ _)]
    simp only [cast_mulMod_self, cast_sqrMod_self]
    rw [mul_assoc _ (Q.z : Coord), ← pow_succ', mul_assoc _ (P.z : Coord), ← pow_succ']
  rw [jacAdd, if_neg h0, if_neg h1]
  refine ⟨fun hU hS => ?_, fun hne => ?_⟩
  · simp only [if_pos (hequal.mpr ⟨hU, hS⟩)]
    exact jacDouble_rule hP
  · simp only [if_neg (mt hequal.mp hne)]
    simp only [cast_subMod_self, cast_addMod_self, cast_mulMod_self, cast_sqrMod_self, mulMod_lt q_pos, sqrMod_lt q_pos,
      subMod_lt q_pos]
    refine ⟨?_, ?_, ?_⟩ <;> push_cast <;> ring

/-- The machine's mixed addition is R237. -/
theorem jacAddMixed_rule {A : Affine} (hP : P.Reduced params.q) (hA : A.Reduced params.q) :
    MixedRule P A (jacAddMixed params P A) := by
  refine ⟨jacAddMixed_reduced one_lt_q hP hA, fun h0 => if_pos h0, fun h0 h1 => by rw [jacAddMixed, if_neg h0, if_pos h1],
    fun h0 h1 => ?_⟩
  obtain ⟨hx, hy, -⟩ := id hP
  have hequal : (mulMod params.q A.x (sqrMod params.q P.z) = P.x ∧
      mulMod params.q (mulMod params.q A.y P.z) (sqrMod params.q P.z) = P.y) ↔
      ((A.x : Coord) * (P.z : Coord) ^ 2 = P.x ∧ (A.y : Coord) * (P.z : Coord) ^ 3 = P.y) := by
    rw [reduced_eq_iff (mulMod_lt q_pos _ _) hx, reduced_eq_iff (mulMod_lt q_pos _ _) hy]
    simp only [cast_mulMod_self, cast_sqrMod_self]
    rw [mul_assoc _ (P.z : Coord), ← pow_succ']
  rw [jacAddMixed, if_neg h0, if_neg h1]
  refine ⟨fun hU hS => ?_, fun hne => ?_⟩
  · simp only [if_pos (hequal.mpr ⟨hU, hS⟩)]
    exact jacDouble_rule hP
  · simp only [if_neg (mt hequal.mp hne)]
    simp only [cast_subMod_self, cast_addMod_self, cast_mulMod_self, cast_sqrMod_self, mulMod_lt q_pos, sqrMod_lt q_pos,
      subMod_lt q_pos, hx, hy]
    refine ⟨?_, ?_, ?_⟩ <;> push_cast <;> ring

end

/-- Settles O45: the machine's doubling. -/
theorem pdblResults : Obligations.PdblResults :=
  unary_of jacElem_form jacElem_form (jacDouble params) (fun _ _ _ => rfl) fun _ hP =>
    ⟨jacDouble_reduced one_lt_q hP, jacDouble_rule hP⟩

/-- Settles O46: the machine's addition. -/
theorem paddResults : Obligations.PaddResults :=
  binary_of jacElem_form jacElem_form jacElem_form (jacAdd params) (fun _ _ _ _ => rfl) fun _ _ hP hQ =>
    ⟨jacAdd_reduced one_lt_q hP hQ, jacAdd_rule hP hQ⟩

/-- Settles O47: the machine's mixed addition. -/
theorem paddmResults : Obligations.PaddmResults :=
  binary_of jacElem_form affElem_form jacElem_form (jacAddMixed params) (fun _ _ _ _ => rfl) fun _ _ hP hA =>
    ⟨jacAddMixed_reduced one_lt_q hP hA, jacAddMixed_rule hP hA⟩

/-! ### Predicates (R233, R234, R239) -/

/-- Equality by cross-multiplication, the identity first. -/
def CrossEqual (P Q : Jacobian) : Prop :=
  (P.z = 0 ∧ Q.z = 0) ∨ (P.z ≠ 0 ∧ Q.z ≠ 0 ∧
    (P.x : Coord) * (Q.z : Coord) ^ 2 = Q.x * (P.z : Coord) ^ 2 ∧
    (P.y : Coord) * (Q.z : Coord) ^ 3 = Q.y * (P.z : Coord) ^ 3)

/-- The machine's comparison is that equality. -/
theorem jacEq_iff (P Q : Jacobian) : jacEq params P Q = true ↔ CrossEqual P Q := by
  rw [jacEq, CrossEqual]
  by_cases hP : P.z = 0
  · simp [hP]
  · by_cases hQ : Q.z = 0
    · simp [hP, hQ]
    · simp only [hP, hQ, if_false, Bool.and_eq_true, decide_eq_true_iff, false_and, false_or, ne_eq, not_false_iff,
        true_and]
      rw [reduced_eq_iff (mulMod_lt q_pos _ _) (mulMod_lt q_pos _ _), reduced_eq_iff (mulMod_lt q_pos _ _) (mulMod_lt q_pos _ _)]
      simp only [cast_mulMod_self, cast_sqrMod_self, ← pow_succ']

/-- Settles O48: the machine's predicates. -/
theorem pointTests : Obligations.PointTests :=
  ⟨test_of jacElem_form (fun P => decide (P.z = 0)) (fun _ _ => rfl) fun _ => decide_eq_true_iff,
    test_of affElem_form (fun P => decide (P.inf = 1)) (fun _ _ => rfl) fun _ => decide_eq_true_iff,
    compare_of jacElem_form (jacEq params) (fun _ _ _ => rfl) fun P Q _ _ => jacEq_iff P Q⟩

/-- A reduced `Z` other than 0 is a unit. -/
theorem z_ne_zero {P : Jacobian} (hP : P.Reduced params.q) (h0 : P.z ≠ 0) : (P.z : Coord) ≠ 0 :=
  cast_ne_zero_of_lt h0 hP.2.2

/-- Every reduced triple stands for a point. -/
theorem exists_standsFor {P : Jacobian} (hP : P.Reduced params.q) : ∃ X, StandsFor P X := by
  by_cases h0 : P.z = 0
  · exact ⟨none, h0⟩
  · obtain ⟨hx, hy⟩ := cast_normalizedXY q_prime h0 hP.2.2
    exact ⟨some (normalizedXY params P), h0, mulMod_lt q_pos _ _, mulMod_lt q_pos _ _, hx, hy⟩

section
variable {P Q : Jacobian}

/-- Triples of one point are equal by cross-multiplication. -/
theorem crossEqual_of_standsFor {X : Point} (h1 : StandsFor P X) (h2 : StandsFor Q X) : CrossEqual P Q := by
  cases X with
  | none => exact .inl ⟨h1, h2⟩
  | some xy =>
    obtain ⟨hPz, -, -, hPx, hPy⟩ := h1
    obtain ⟨hQz, -, -, hQx, hQy⟩ := h2
    refine .inr ⟨hPz, hQz, ?_, ?_⟩
    · rw [← hPx, ← hQx]; ring
    · rw [← hPy, ← hQy]; ring

/-- Triples that are equal by cross-multiplication are triples of one point. -/
theorem StandsFor.of_crossEqual (hP : P.Reduced params.q) (h : CrossEqual P Q) {X : Point} (h1 : StandsFor P X) : StandsFor Q X := by
  have hprime : Fact params.q.Prime := ⟨q_prime⟩
  rcases h with ⟨hPz, hQz⟩ | ⟨hPz, hQz, hx, hy⟩
  · cases X with
    | none => exact hQz
    | some xy => exact absurd hPz h1.1
  · cases X with
    | none => exact absurd h1 hPz
    | some xy =>
      obtain ⟨-, hxlt, hylt, hPx, hPy⟩ := h1
      have hz := z_ne_zero hP hPz
      refine ⟨hQz, hxlt, hylt, ?_, ?_⟩
      · refine mul_right_cancel₀ (pow_ne_zero 2 hz) ?_
        rw [← hx, ← hPx]; ring
      · refine mul_right_cancel₀ (pow_ne_zero 3 hz) ?_
        rw [← hy, ← hPy]; ring

theorem crossEqual_iff (hP : P.Reduced params.q) : CrossEqual P Q ↔ ∃ X, StandsFor P X ∧ StandsFor Q X := by
  constructor
  · intro h
    obtain ⟨X, hX⟩ := exists_standsFor hP
    exact ⟨X, hX, hX.of_crossEqual hP h⟩
  · rintro ⟨X, h1, h2⟩
    exact crossEqual_of_standsFor h1 h2

end

/-- Settles O49: the comparison of `peq`, and what the triples stand for. -/
theorem peqSamePoint : Obligations.PeqSamePoint :=
  compare_of jacElem_form (jacEq params) (fun _ _ _ => rfl) fun P Q hP _ => (jacEq_iff P Q).trans (crossEqual_iff hP)

/-! ### Conversions (R238, R240, R241) -/

theorem affNeg_rule {P : Affine} (hP : P.Reduced params.q) : NegRule P (affNeg params P) := by
  obtain ⟨-, hy, -⟩ := id hP
  refine ⟨affNeg_reduced one_lt_q hP, fun h1 => if_pos h1, fun h1 => ?_⟩
  rw [affNeg, if_neg h1]
  exact ⟨rfl, cast_negMod_self hy, rfl⟩

theorem toAffine_rule {P : Jacobian} (hP : P.Reduced params.q) : AffineRule P (toAffine params P) := by
  refine ⟨toAffine_reduced one_lt_q hP, fun h0 => if_pos h0, fun h0 => ?_⟩
  rw [toAffine, if_neg h0]
  split_ifs with h1
  · simp [h1]
  · obtain ⟨hx, hy⟩ := cast_normalizedXY q_prime h0 hP.2.2
    exact ⟨hx, hy, rfl⟩

/-- Settles O50: the machine's conversions. -/
theorem pointConversions : Obligations.PointConversions :=
  ⟨unary_of affElem_form affElem_form (affNeg params) (fun _ _ _ => rfl) fun _ hP =>
      ⟨affNeg_reduced one_lt_q hP, affNeg_rule hP⟩,
    unary_of affElem_form jacElem_form toJacobian (fun _ _ _ => rfl) fun _ hP =>
      ⟨toJacobian_reduced one_lt_q hP, fun h1 => if_pos h1, fun h1 => if_neg h1⟩,
    unary_of jacElem_form affElem_form (toAffine params) (fun _ _ _ => rfl) fun _ hP =>
      ⟨toAffine_reduced one_lt_q hP, toAffine_rule hP⟩⟩

/-! ### One shared inversion (R272) -/

section
variable {m : Nat}

theorem prefixProducts_append_singleton (a : Nat) (ys : List Nat) (z : Nat) :
    prefixProducts m a (ys ++ [z]) = prefixProducts m a ys ++ [mulMod m ((prefixProducts m a ys).getLastD a) z] := by
  induction ys generalizing a with
  | nil => rfl
  | cons y ys ih => simp only [List.cons_append, prefixProducts, ih, List.getLastD_cons]

/-- The last pair of the backward pass is the last `Z` and the product of all before it. -/
theorem zip_prefixProducts (a : Nat) (ys : List Nat) (z : Nat) :
    (ys ++ [z]).zip (a :: prefixProducts m a (ys ++ [z])) =
      ys.zip (a :: prefixProducts m a ys) ++ [(z, (prefixProducts m a ys).getLastD a)] := by
  induction ys generalizing a with
  | nil => rfl
  | cons y ys ih => simp only [List.cons_append, prefixProducts, List.zip_cons_cons, ih, List.getLastD_cons]

variable (hm : m.Prime)
include hm

/-- The product of reduced units is a reduced unit. -/
theorem getLastD_prefixProducts {a : Nat} {zs : List Nat} (ha : a < m) (h0 : (a : ZMod m) ≠ 0)
    (hzs : ∀ z ∈ zs, z ≠ 0 ∧ z < m) :
    (prefixProducts m a zs).getLastD a < m ∧ (((prefixProducts m a zs).getLastD a : Nat) : ZMod m) ≠ 0 := by
  have hprime : Fact m.Prime := ⟨hm⟩
  induction zs generalizing a with
  | nil => exact ⟨ha, h0⟩
  | cons z zs ih =>
    obtain ⟨⟨hz, hzlt⟩, hrest⟩ := List.forall_mem_cons.mp hzs
    rw [prefixProducts, List.getLastD_cons]
    refine ih (mulMod_lt hm.pos a z) ?_ hrest
    rw [cast_mulMod_self]
    exact mul_ne_zero h0 (cast_ne_zero_of_lt hz hzlt)

/-- The reduced inverse is unique. -/
theorem eq_invMod {x z : Nat} (hx : x < m) (hz : z ≠ 0) (hzlt : z < m) (h : (x : ZMod m) * z = 1) :
    x = (invMod m z).getD 0 := by
  have hprime : Fact m.Prime := ⟨hm⟩
  have hlt : (invMod m z).getD 0 < m := by
    rw [invMod_of_ne_zero m hz, Option.getD_some]
    exact powMod_lt hm.one_lt _ _
  rw [eq_iff_cast_eq hx hlt]
  exact mul_right_cancel₀ (cast_ne_zero_of_lt hz hzlt) (h.trans (cast_invMod_mul hm hz hzlt).symm)

/-- From an inverse of the whole product the backward pass gives the inverse of each factor. -/
theorem backwardPass_eq (a : Nat) {zs : List Nat} (hzs : ∀ z ∈ zs, z ≠ 0 ∧ z < m) {t : Nat}
    (ht : (t : ZMod m) * ((prefixProducts m a zs).getLastD a : Nat) = 1) :
    (backwardPass m t (zs.zip (a :: prefixProducts m a zs)).reverse).reverse = zs.map fun z => (invMod m z).getD 0 := by
  induction zs using List.reverseRecOn generalizing t with
  | nil => rfl
  | append_singleton ys z ih =>
    obtain ⟨hys, hlast⟩ := List.forall_mem_append.mp hzs
    obtain ⟨hz, hzlt⟩ := hlast z (List.mem_singleton.mpr rfl)
    rw [prefixProducts_append_singleton, List.getLastD_concat, cast_mulMod_self] at ht
    have hnext : ((mulMod m t z : Nat) : ZMod m) * ((prefixProducts m a ys).getLastD a : Nat) = 1 := by
      rw [cast_mulMod_self, ← ht]
      ring
    have hinv : ((mulMod m t ((prefixProducts m a ys).getLastD a) : Nat) : ZMod m) * z = 1 := by
      rw [cast_mulMod_self, ← ht]
      ring
    rw [zip_prefixProducts, List.reverse_append, List.reverse_singleton, List.singleton_append, backwardPass,
      List.reverse_cons, ih hys hnext, List.map_append, List.map_singleton,
      eq_invMod hm (mulMod_lt hm.pos _ _) hz hzlt hinv]

/-- One inversion gives the inverse of every factor. -/
theorem sharedInverses_eq {zs : List Nat} (hzs : ∀ z ∈ zs, z ≠ 0 ∧ z < m) :
    sharedInverses m zs = zs.map fun z => (invMod m z).getD 0 := by
  have hprime : Fact m.Prime := ⟨hm⟩
  obtain ⟨hlt, h0⟩ := getLastD_prefixProducts hm hm.one_lt (by rw [Nat.cast_one]; exact one_ne_zero) hzs
  have hne : (prefixProducts m 1 zs).getLastD 1 ≠ 0 := fun h => h0 (by rw [h, Nat.cast_zero])
  exact backwardPass_eq hm 1 hzs (cast_invMod_mul hm hne hlt)

end

/-- Scaling by the inverses in order is the normal form of each triple. -/
theorem applyInverses_eq (p : Params) (ps : List Jacobian) :
    applyInverses p.q ps (((ps.map Jacobian.z).filter fun z => !(z == 0 || z == 1)).map fun z => (invMod p.q z).getD 0) =
      batchNormalize p ps := by
  rw [batchNormalize]
  induction ps with
  | nil => rfl
  | cons P ps ih =>
    by_cases hnormal : P.z = 0 ∨ P.z = 1
    · have hskip : (!(P.z == 0 || P.z == 1)) = false := by rcases hnormal with h | h <;> simp [h]
      rw [List.map_cons, List.filter_cons_of_neg (by simp [hskip]), applyInverses, if_pos hnormal, ih, List.map_cons,
        normalizePoint_of_normal p hnormal]
    · obtain ⟨h0, h1⟩ := not_or.mp hnormal
      rw [List.map_cons, List.filter_cons_of_pos (by simp [h0, h1]), List.map_cons, applyInverses, if_neg hnormal,
        List.headD_cons, List.tail_cons, ih, List.map_cons, normalizePoint_of_not_normal p h0 h1]
      rfl

/-- Settles O52: the shared inversion gives the inverse of every `Z` that needs one. -/
theorem batchSharedInversion : Obligations.BatchSharedInversion := fun ps hps => by
  rw [batchNormalizeShared, sharedInverses_eq q_prime fun z hz => ?_, applyInverses_eq]
  obtain ⟨hmem, hne⟩ := List.mem_filter.mp hz
  obtain ⟨P, hP, rfl⟩ := List.mem_map.mp hmem
  exact ⟨fun h0 => by simp [h0] at hne, (hps P hP).2.2⟩

end Sys2Proof.Machine
end

section
/-! Scalar multiplication (46_scalar_mul.md R280 to R287): the recoding is the windowed non-adjacent form, and the machine's
loops are those of the rules. -/

namespace Sys2Proof.Machine

open Config

/-! ### The recoding (R284) -/

/-- The digit that the recoding makes of `e`. -/
def wnafDigit (e : Nat) : Int :=
  if e % 2 = 1 then if 16 ≤ e % 32 then ((e % 32 : Nat) : Int) - 32 else ((e % 32 : Nat) : Int) else 0

/-- What the digit leaves of `e`. -/
def wnafRest (e : Nat) : Nat :=
  if e % 2 = 1 then if 16 ≤ e % 32 then (e + (32 - e % 32)) / 2 else (e - e % 32) / 2 else e / 2

theorem wnafLoop_zero (fuel : Nat) : wnafLoop fuel 0 = [] := by cases fuel <;> rfl

theorem wnafLoop_succ (fuel : Nat) {e : Nat} (he : e ≠ 0) :
    wnafLoop (fuel + 1) e = wnafDigit e :: wnafLoop fuel (wnafRest e) := by
  simp only [wnafLoop, if_neg he, wnafDigit, wnafRest]
  split_ifs <;> rfl

theorem wnafDigit_add_rest (e : Nat) : wnafDigit e + 2 * (wnafRest e : Int) = e := by
  rw [wnafDigit, wnafRest]
  split_ifs <;> omega

/-- A digit other than 0 is odd and centred, and leaves a multiple of 16. -/
theorem wnafDigit_of_ne_zero {e : Nat} (h : wnafDigit e ≠ 0) :
    wnafDigit e % 2 = 1 ∧ -15 ≤ wnafDigit e ∧ wnafDigit e ≤ 15 ∧ 2 ^ 4 ∣ wnafRest e := by
  rw [wnafDigit] at h ⊢
  rw [wnafRest]
  split_ifs at h ⊢ <;> omega

theorem wnafDigit_eq_zero_iff (e : Nat) : wnafDigit e = 0 ↔ e % 2 = 0 := by
  rw [wnafDigit]
  split_ifs <;> omega

/-- What the digit leaves fits into the digits still to make. -/
theorem wnafRest_le {fuel e : Nat} (h : 2 * e ≤ 2 ^ (fuel + 1)) : 2 * wnafRest e ≤ 2 ^ fuel := by
  rw [pow_succ'] at h
  rw [wnafRest]
  split_ifs with hodd hlarge
  · have hfuel : 5 ≤ fuel := by
      by_contra hlt
      have := Nat.pow_le_pow_right two_pos (show fuel ≤ 4 by omega)
      omega
    obtain ⟨c, hc⟩ := pow_dvd_pow 2 hfuel
    omega
  · omega
  · omega

section
variable {fuel e : Nat}

theorem wnafLoop_eq_nil_iff (h : 2 * e ≤ 2 ^ fuel) : wnafLoop fuel e = [] ↔ e = 0 := by
  refine ⟨fun hnil => ?_, fun h0 => by rw [h0, wnafLoop_zero]⟩
  by_contra h0
  cases fuel with
  | zero => omega
  | succ fuel => rw [wnafLoop_succ fuel h0] at hnil; cases hnil

theorem length_wnafLoop_le (fuel e : Nat) : (wnafLoop fuel e).length ≤ fuel := by
  induction fuel generalizing e with
  | zero => rfl
  | succ fuel ih =>
    by_cases h0 : e = 0
    · simp [h0, wnafLoop_zero]
    · rw [wnafLoop_succ fuel h0, List.length_cons]
      exact Nat.succ_le_succ (ih _)

theorem digitsValue_wnafLoop (h : 2 * e ≤ 2 ^ fuel) : digitsValue (wnafLoop fuel e) = e := by
  induction fuel generalizing e with
  | zero =>
    obtain rfl : e = 0 := by omega
    rfl
  | succ fuel ih =>
    by_cases h0 : e = 0
    · subst h0; rfl
    · have hrest := ih (wnafRest_le h)
      rw [digitsValue] at hrest
      rw [wnafLoop_succ fuel h0, digitsValue, List.foldr_cons, hrest, wnafDigit_add_rest]

theorem wnafLoop_digit {d : Int} (hd : d ∈ wnafLoop fuel e) (hne : d ≠ 0) : d % 2 = 1 ∧ -15 ≤ d ∧ d ≤ 15 := by
  induction fuel generalizing e with
  | zero => cases hd
  | succ fuel ih =>
    by_cases h0 : e = 0
    · rw [h0, wnafLoop_zero] at hd; cases hd
    · rw [wnafLoop_succ fuel h0] at hd
      rcases List.mem_cons.mp hd with rfl | hd
      · obtain ⟨hodd, hlow, hhigh, -⟩ := wnafDigit_of_ne_zero hne
        exact ⟨hodd, hlow, hhigh⟩
      · exact ih hd

/-- A multiple of `2^j` begins with `j` digits 0. -/
theorem wnafLoop_leading {i j : Nat} {d : Int} (hdvd : 2 ^ j ∣ e) (hij : i < j) (hd : (wnafLoop fuel e)[i]? = some d) :
    d = 0 := by
  induction fuel generalizing e i j with
  | zero => cases hd
  | succ fuel ih =>
    by_cases h0 : e = 0
    · rw [h0, wnafLoop_zero] at hd; cases hd
    · obtain ⟨j, rfl⟩ := Nat.exists_eq_succ_of_ne_zero (show j ≠ 0 by omega)
      have heven : e % 2 = 0 := Nat.mod_eq_zero_of_dvd (dvd_trans (dvd_pow_self 2 j.succ_ne_zero) hdvd)
      rw [wnafLoop_succ fuel h0] at hd
      cases i with
      | zero =>
        rw [List.getElem?_cons_zero, Option.some.injEq] at hd
        rw [← hd, wnafDigit_eq_zero_iff, heven]
      | succ i =>
        rw [List.getElem?_cons_succ] at hd
        refine ih (j := j) ?_ (by omega) hd
        rw [wnafRest, if_neg (by omega)]
        exact Nat.dvd_div_of_mul_dvd (by rwa [← pow_succ'])

theorem wnafLoop_sparse {i j : Nat} {d d' : Int} (hi : (wnafLoop fuel e)[i]? = some d) (hne : d ≠ 0) (hij : i < j)
    (hj : j ≤ i + 4) (hd' : (wnafLoop fuel e)[j]? = some d') : d' = 0 := by
  induction fuel generalizing e i j with
  | zero => cases hi
  | succ fuel ih =>
    by_cases h0 : e = 0
    · rw [h0, wnafLoop_zero] at hi; cases hi
    · rw [wnafLoop_succ fuel h0] at hi hd'
      obtain ⟨j, rfl⟩ := Nat.exists_eq_succ_of_ne_zero (show j ≠ 0 by omega)
      rw [List.getElem?_cons_succ] at hd'
      cases i with
      | zero =>
        rw [List.getElem?_cons_zero, Option.some.injEq] at hi
        subst hi
        obtain ⟨-, -, -, hdvd⟩ := wnafDigit_of_ne_zero hne
        exact wnafLoop_leading hdvd (by omega) hd'
      | succ i =>
        rw [List.getElem?_cons_succ] at hi
        exact ih hi (by omega) (by omega) hd'

theorem wnafLoop_last (h : 2 * e ≤ 2 ^ fuel) {d : Int} (hd : (wnafLoop fuel e).getLast? = some d) : d ≠ 0 := by
  induction fuel generalizing e with
  | zero => cases hd
  | succ fuel ih =>
    by_cases h0 : e = 0
    · rw [h0, wnafLoop_zero] at hd; cases hd
    · rw [wnafLoop_succ fuel h0] at hd
      have hrest := wnafRest_le h
      by_cases hnil : wnafLoop fuel (wnafRest e) = []
      · rw [hnil, List.getLast?_singleton, Option.some.injEq] at hd
        have hvalue := wnafDigit_add_rest e
        rw [(wnafLoop_eq_nil_iff hrest).mp hnil] at hvalue
        omega
      · rw [List.getLast?_cons_of_ne_nil hnil] at hd
        exact ih hrest hd

end

theorem lt_two_pow_bitLen (e : Nat) : e < 2 ^ bitLen e := by
  rw [bitLen]
  split_ifs with h0
  · simp [h0]
  · exact Nat.lt_log2_self

theorem wnaf_isWnaf (e : Nat) : IsWnaf e (wnaf e) := by
  have hfuel : 2 * e ≤ 2 ^ (bitLen e + 1) := by
    have := lt_two_pow_bitLen e
    rw [pow_succ]
    omega
  exact ⟨digitsValue_wnafLoop hfuel, fun _ _ hd => wnafLoop_digit (List.mem_of_getElem? hd),
    fun _ _ _ _ hi hne hij hj hd' => wnafLoop_sparse hi hne hij hj hd', fun _ => wnafLoop_last hfuel⟩

/-- Settles O54: each digit leaves a smaller number, and one other than 0 a multiple of 16. -/
theorem wnafProperties : Obligations.WnafProperties := fun e =>
  ⟨wnaf_isWnaf e, length_wnafLoop_le _ e, fun h0 => by rw [h0, wnaf, wnafLoop_zero]⟩

/-! ### Double-and-add (R287) -/

section
variable {P R c : Jacobian} {e : Nat}

/-- Before the first bit that is 1 the accumulator is the identity. -/
theorem NaiveRule.eq_identity (h : NaiveRule P 0 R) : R = jacIdentity := by
  generalize hz : 0 = n at h
  cases h with
  | zero => rfl
  | even he => omega
  | odd => omega

/-- A bit that is 0 doubles. -/
theorem NaiveRule.double (hR : R.Reduced params.q) (h : NaiveRule P e R) :
    NaiveRule P (2 * e) (jacDouble params R) := by
  rcases Nat.eq_zero_or_pos e with rfl | he
  · rw [h.eq_identity]
    exact .zero
  · exact .even he h (jacDouble_rule hR)

/-- A bit that is 1 doubles and adds. -/
theorem NaiveRule.double_add (hP : P.Reduced params.q) (hR : R.Reduced params.q) (h : NaiveRule P e R) :
    NaiveRule P (2 * e + 1) (jacAdd params (jacDouble params R) P) :=
  .odd h (jacDouble_rule hR) (jacAdd_rule (jacDouble_reduced one_lt_q hR) hP)

/-- The loop goes on from the leading bits to all of them. -/
theorem naiveLoop_rule (hP : P.Reduced params.q) (e : Nat) {i : Nat} (hR : R.Reduced params.q)
    (h : NaiveRule P (e / 2 ^ i) R) : NaiveRule P e (naiveLoop params P e i R) := by
  induction i generalizing R with
  | zero => rwa [pow_zero, Nat.div_one] at h
  | succ i ih =>
    have hD := jacDouble_reduced one_lt_q hR
    have hbits : e / 2 ^ i = 2 * (e / 2 ^ (i + 1)) + e / 2 ^ i % 2 := by
      rw [pow_succ, ← Nat.div_div_eq_div_mul]
      omega
    rw [naiveLoop, Nat.testBit_eq_decide_div_mod_eq]
    rcases Nat.mod_two_eq_zero_or_one (e / 2 ^ i) with hbit | hbit
    · rw [hbit, add_zero] at hbits
      simp only [hbit, zero_ne_one, decide_false, Bool.false_eq_true, if_false]
      exact ih hD (hbits ▸ h.double hR)
    · rw [hbit] at hbits
      simp only [hbit, decide_true, if_true]
      exact ih (jacAdd_reduced one_lt_q hD hP) (hbits ▸ h.double_add hP hR)

theorem naiveMul_rule (hP : P.Reduced params.q) (e : Nat) : NaiveRule P e (naiveMul params P e) := by
  refine naiveLoop_rule hP e (jacIdentity_reduced one_lt_q) ?_
  rw [Nat.div_eq_of_lt (lt_two_pow_bitLen e)]
  exact .zero

theorem naiveMul_one (P : Jacobian) : naiveMul params P 1 = P := rfl

end

/-- Settles O55: the machine's loop is that of R287. -/
theorem pmulnResults : Obligations.PmulnResults :=
  binary_of jacElem_form rawElem_form jacElem_form (naiveMul params) (fun _ _ _ _ => rfl) fun P e hP _ =>
    ⟨naiveMul_reduced one_lt_q hP e, naiveMul_rule hP e, fun h0 => by rw [h0]; rfl, fun h1 => by rw [h1, naiveMul_one]⟩

/-! ### The tables (R282, R283) -/

section
variable {P : Jacobian} {D : Affine}

theorem length_oddMultiples (p : Params) (D : Affine) (n : Nat) (P : Jacobian) : (oddMultiples p D n P).length = n := by
  induction n generalizing P with
  | zero => rfl
  | succ n ih => rw [oddMultiples, List.length_cons, ih]

theorem oddMultiples_head (p : Params) (D : Affine) (n : Nat) (P : Jacobian) :
    (oddMultiples p D (n + 1) P)[0]? = some P := rfl

/-- Each entry is the mixed sum of the one before it. -/
theorem oddMultiples_next (p : Params) (D : Affine) {n i : Nat} {P B C : Jacobian}
    (hB : (oddMultiples p D n P)[i]? = some B) (hC : (oddMultiples p D n P)[i + 1]? = some C) :
    C = jacAddMixed p B D := by
  induction n generalizing P i with
  | zero => cases hB
  | succ n ih =>
    rw [oddMultiples] at hB hC
    rw [List.getElem?_cons_succ] at hC
    cases i with
    | zero =>
      cases n with
      | zero => cases hC
      | succ n =>
        rw [List.getElem?_cons_zero, Option.some.injEq] at hB
        rw [oddMultiples_head, Option.some.injEq] at hC
        rw [← hC, hB]
    | succ i => exact ih (by rwa [List.getElem?_cons_succ] at hB) hC

/-- The machine's first table is that of R283. -/
theorem oddMultiples_table (hP : P.Reduced params.q) :
    OddTable P (oddMultiples params (toAffine params (jacDouble params P)) 8 P) := by
  have hD := jacDouble_reduced one_lt_q hP
  have hA := toAffine_reduced one_lt_q hD
  refine ⟨length_oddMultiples .., oddMultiples_head .., _, _, jacDouble_rule hP, toAffine_rule hD, fun i B C hB hC => ?_⟩
  rw [oddMultiples_next _ _ hB hC]
  exact jacAddMixed_rule (oddMultiples_reduced one_lt_q hA hP 8 B (List.mem_of_getElem? hB)) hA

/-- Normalizing first makes no difference to the affine point. -/
theorem toAffine_normalizePoint_rule (hP : P.Reduced params.q) :
    AffineRule P (toAffine params (normalizePoint params P)) := by
  obtain ⟨hN, hkeep, hscale⟩ := normalizePoint_rule hP
  by_cases hnormal : P.z = 0 ∨ P.z = 1
  · rw [hkeep hnormal]
    exact toAffine_rule hP
  · obtain ⟨h0, h1⟩ := not_or.mp hnormal
    obtain ⟨hx, hy, hz⟩ := hscale h0 h1
    obtain ⟨hA, -, hvalue⟩ := toAffine_rule hN
    obtain ⟨hAx, hAy, hinf⟩ := hvalue (by rw [hz]; exact one_ne_zero)
    rw [hz, Nat.cast_one, one_pow, mul_one] at hAx hAy
    exact ⟨hA, fun h => absurd h h0, fun _ => ⟨by rw [hAx, hx], by rw [hAy, hy], hinf⟩⟩

/-- The two halves of the batch of R283. -/
theorem windowTables_eq (P : Jacobian) :
    windowTables params P =
      ((oddMultiples params (toAffine params (jacDouble params P)) 8 P).map fun Q => toAffine params (normalizePoint params Q),
        ((oddMultiples params (toAffine params (jacDouble params P)) 8 P).map endoTriple).map
          fun Q => toAffine params (normalizePoint params Q)) := by
  have hlen : ((oddMultiples params (toAffine params (jacDouble params P)) 8 P).map
      fun Q => toAffine params (normalizePoint params Q)).length = 8 := by
    rw [List.length_map, length_oddMultiples]
  rw [windowTables, batchNormalize]
  simp only [List.map_append, List.map_map]
  exact Prod.ext (List.take_left' hlen) (List.drop_left' hlen)

theorem forall₂_affineRule {T : List Jacobian} (hT : ∀ Q ∈ T, Q.Reduced params.q) :
    List.Forall₂ AffineRule T (T.map fun Q => toAffine params (normalizePoint params Q)) :=
  List.forall₂_map_right_iff.mpr (List.forall₂_same.mpr fun Q hQ => toAffine_normalizePoint_rule (hT Q hQ))

theorem endoTriple_reduced (hP : P.Reduced params.q) : (endoTriple P).Reduced params.q :=
  ⟨Nat.mod_lt _ q_pos, hP.2⟩

end

/-! ### The combined loop (R285) -/

section
variable {n1 n2 ds : List Int} {A A1 A2 : List Affine} {acc : Jacobian}

/-- The digits select entries of a table of eight. -/
def DigitsSelect (ds : List Int) (A : List Affine) : Prop :=
  A.length = 8 ∧ (∀ E ∈ A, E.Reduced params.q) ∧ ∀ d ∈ ds, d.natAbs ≤ 15

/-- The contribution of one table. -/
theorem addDigit_rule (hA : DigitsSelect ds A) (hacc : acc.Reduced params.q) (i : Nat) :
    DigitRule ds A i acc (addDigit params ds A i acc) := by
  obtain ⟨hlen, hred, hdigit⟩ := hA
  refine ⟨fun d hd h0 => ?_, fun hnone => ?_⟩
  · have hle := hdigit d (List.mem_of_getElem? hd)
    have hsel : A[d.natAbs / 2]? = some (A.getD (d.natAbs / 2) affIdentity) := by
      rw [List.getD_eq_getElem?_getD, List.getElem?_eq_getElem (by omega), Option.getD_some]
    have hE := hred _ (List.mem_of_getElem? hsel)
    have hS : (digitPoint params A d).Reduced params.q := by
      rw [digitPoint]
      split_ifs
      · exact affNeg_reduced one_lt_q hE
      · exact hE
    refine ⟨_, digitPoint params A d, hsel, fun hpos => ?_, fun hneg => ?_, ?_⟩
    · rw [digitPoint, if_neg (by omega)]
    · rw [digitPoint, if_pos hneg]
      exact affNeg_rule hE
    · simp only [addDigit, hd, if_neg h0]
      exact jacAddMixed_rule hacc hS
  · rcases hnone with hnone | hzero
    · simp only [addDigit, hnone]
    · simp only [addDigit, hzero, if_true]

theorem combinedFrom_rule (h1 : DigitsSelect n1 A1) (h2 : DigitsSelect n2 A2) (i : Nat) (hacc : acc.Reduced params.q) :
    LoopRule n1 n2 A1 A2 i acc (combinedFrom params n1 n2 A1 A2 i acc) := by
  induction i generalizing acc with
  | zero => exact .empty
  | succ i ih =>
    have ha := addDigit_reduced one_lt_q h1.2.1 n1 i hacc
    have hb := addDigit_reduced one_lt_q h2.2.1 n2 i ha
    cases i with
    | zero => exact .last (addDigit_rule h1 hacc 0) (addDigit_rule h2 ha 0)
    | succ i =>
      exact .next (addDigit_rule h1 hacc _) (addDigit_rule h2 ha _) (jacDouble_rule hb)
        (ih (jacDouble_reduced one_lt_q hb))

end

/-- The digits of a half-scalar under its sign select entries of a table of eight. -/
theorem signedDigits_natAbs_le {k : Nat} {negative : Bool} {d : Int} (hd : d ∈ signedDigits k negative) :
    d.natAbs ≤ 15 := by
  have hwnaf {x : Int} (hx : x ∈ wnaf k) : x.natAbs ≤ 15 := by
    by_cases h0 : x = 0
    · simp [h0]
    · have := wnafLoop_digit hx h0
      omega
  rw [signedDigits] at hd
  split_ifs at hd
  · obtain ⟨x, hx, rfl⟩ := List.mem_map.mp hd
    rw [Int.natAbs_neg]
    exact hwnaf hx
  · exact hwnaf hd

/-- The machine's triple is that of R286. -/
theorem glvMul_rule {P : Jacobian} (hP : P.Reduced params.q) (k : Nat) : GlvRule P k (glvMul params P k) := by
  have htable := oddMultiples_table hP
  have hT := oddMultiples_reduced one_lt_q (toAffine_reduced one_lt_q (jacDouble_reduced one_lt_q hP)) hP 8
  have hE : ∀ Q ∈ (oddMultiples params (toAffine params (jacDouble params P)) 8 P).map endoTriple, Q.Reduced params.q :=
    List.forall_mem_map.mpr fun Q hQ => endoTriple_reduced (hT Q hQ)
  have hselect {T : List Jacobian} (hlen : T.length = 8) (hred : ∀ Q ∈ T, Q.Reduced params.q) (k : Nat) (negative : Bool) :
      DigitsSelect (signedDigits k negative) (T.map fun Q => toAffine params (normalizePoint params Q)) :=
    ⟨by rw [List.length_map, hlen], List.forall_mem_map.mpr fun Q hQ =>
      toAffine_reduced one_lt_q (normalizePoint_reduced one_lt_q (hred Q hQ)), fun _ => signedDigits_natAbs_le⟩
  refine ⟨_, _, _, _, _, htable, forall₂_affineRule hT, forall₂_affineRule hE, wnaf_isWnaf _, wnaf_isWnaf _, ?_⟩
  rw [glvMul, windowTables_eq, combinedLoop]
  have hloop := combinedFrom_rule
    (hselect (length_oddMultiples ..) hT (params.glvDecompose k).k1 (params.glvDecompose k).s1)
    (hselect (by rw [List.length_map, length_oddMultiples]) hE (params.glvDecompose k).k2 (params.glvDecompose k).s2)
    (max (wnaf (params.glvDecompose k).k1).length (wnaf (params.glvDecompose k).k2).length) (jacIdentity_reduced one_lt_q)
  have hlength (k : Nat) (negative : Bool) : (signedDigits k negative).length = (wnaf k).length := by
    rw [signedDigits]
    split_ifs
    · rw [List.length_map]
    · rfl
  rw [hlength, hlength]
  exact hloop

/-- Settles O56: the machine's tables, digits and loop are those of the rules. -/
theorem pmulResults : Obligations.PmulResults :=
  binary_of jacElem_form (primeElem_form _) jacElem_form (glvMul params) (fun _ _ _ _ => rfl) fun _ k hP _ =>
    ⟨glvMul_reduced one_lt_q hP k, glvMul_rule hP k⟩

end Sys2Proof.Machine
end

section
/-! The chord-and-tangent group (44_curve_group.md R230, R231, R255; log 12): the points are those of Mathlib's Weierstrass
curve `y² = x³ + a·x + b`, the machine's sum is its addition, and the rules of the group commands follow it. -/

namespace Sys2Proof.Machine

open Config

/-! ### The curve -/

/-- The curve `y² = x³ + a·x + b`. -/
def curve : WeierstrassCurve.Affine Coord := ⟨0, 0, 0, params.coeffA, params.coeffB⟩

/-- The group of its points. -/
abbrev CurvePoint : Type := curve.Point

theorem curve_equation_iff (x y : Coord) :
    curve.Equation x y ↔ y ^ 2 = x ^ 3 + params.coeffA * x + params.coeffB := by
  simp [WeierstrassCurve.Affine.equation_iff, curve]

theorem curve_negY (x y : Coord) : curve.negY x y = -y := by simp [WeierstrassCurve.Affine.negY, curve]

section
variable [Fact params.q.Prime]

theorem two_ne_zero_coord : (2 : Coord) ≠ 0 := by
  have h := cast_ne_zero_of_lt (m := params.q) (a := 2) two_ne_zero (by have := seven_le_q; omega)
  exact_mod_cast h

/-- Every point of the curve is nonsingular (R7 WF6). -/
theorem curve_nonsingular {x y : Coord} (h : y ^ 2 = x ^ 3 + params.coeffA * x + params.coeffB) :
    curve.Nonsingular x y := by
  have hdisc : (4 * (params.coeffA : Coord) ^ 3 + 27 * (params.coeffB : Coord) ^ 2) ≠ 0 := by
    have hmod := mt Nat.mod_eq_zero_of_dvd params_wellFormed.nonSingular
    rw [← ZMod.natCast_eq_zero_iff] at hmod
    exact_mod_cast hmod
  have hΔ : curve.Δ ≠ 0 := by
    have hvalue : curve.Δ = -2 ^ 4 * (4 * (params.coeffA : Coord) ^ 3 + 27 * (params.coeffB : Coord) ^ 2) := by
      simp only [WeierstrassCurve.Δ, WeierstrassCurve.b₂, WeierstrassCurve.b₄, WeierstrassCurve.b₆, WeierstrassCurve.b₈, curve]
      ring
    rw [hvalue]
    exact mul_ne_zero (neg_ne_zero.mpr (pow_ne_zero 4 two_ne_zero_coord)) hdisc
  exact (WeierstrassCurve.Affine.equation_iff_nonsingular_of_Δ_ne_zero hΔ).mp ((curve_equation_iff x y).mpr h)

/-- `l` is the slope of the chord through two points, or of the tangent where they are equal. -/
def IsSlope (x1 y1 x2 y2 l : Coord) : Prop :=
  (x1 ≠ x2 ∧ l * (x2 - x1) = y2 - y1) ∨
    (x1 = x2 ∧ y1 = y2 ∧ y1 ≠ 0 ∧ 2 * y1 * l = 3 * x1 ^ 2 + params.coeffA)

/-- For points that are not opposite the slope of the curve is that slope. -/
theorem isSlope_slope {x1 y1 x2 y2 : Coord} (h1 : curve.Equation x1 y1) (h2 : curve.Equation x2 y2)
    (hopp : ¬(x1 = x2 ∧ y1 = -y2)) : IsSlope x1 y1 x2 y2 (curve.slope x1 x2 y1 y2) := by
  by_cases hx : x1 = x2
  · have hne : y1 ≠ -y2 := fun hy => hopp ⟨hx, hy⟩
    have hsq : y1 ^ 2 = y2 ^ 2 := by rw [(curve_equation_iff x1 y1).mp h1, (curve_equation_iff x2 y2).mp h2, hx]
    have hy : y1 = y2 := (sq_eq_sq_iff_eq_or_eq_neg.mp hsq).resolve_right hne
    have h0 : y1 ≠ 0 := fun h0 => hne (by rw [← hy, h0, neg_zero])
    have hden : y1 - -y1 ≠ 0 := by
      rw [sub_neg_eq_add, ← two_mul]
      exact mul_ne_zero two_ne_zero_coord h0
    have hnum : 3 * x1 ^ 2 + 2 * curve.a₂ * x1 + curve.a₄ - curve.a₁ * y1 = 3 * x1 ^ 2 + params.coeffA := by
      simp [curve]
    rw [WeierstrassCurve.Affine.slope_of_Y_ne hx (by rwa [curve_negY]), curve_negY, hnum]
    exact .inr ⟨hx, hy, h0, by linear_combination div_mul_cancel₀ (3 * x1 ^ 2 + (params.coeffA : Coord)) hden⟩
  · rw [WeierstrassCurve.Affine.slope_of_X_ne hx]
    exact .inl ⟨hx, by linear_combination -div_mul_cancel₀ (y1 - y2) (sub_ne_zero.mpr hx)⟩

/-- A sum is the identity for opposite points, else chord and tangent. -/
theorem curve_add {x1 y1 x2 y2 : Coord} (h1 : curve.Nonsingular x1 y1) (h2 : curve.Nonsingular x2 y2) :
    (x1 = x2 ∧ y1 = -y2 ∧ (.some x1 y1 h1 + .some x2 y2 h2 : CurvePoint) = 0) ∨
    ∃ l, IsSlope x1 y1 x2 y2 l ∧ ∃ h3, (.some x1 y1 h1 + .some x2 y2 h2 : CurvePoint) =
      .some (l ^ 2 - x1 - x2) (l * (x1 - (l ^ 2 - x1 - x2)) - y1) h3 := by
  by_cases hopp : x1 = x2 ∧ y1 = -y2
  · exact .inl ⟨hopp.1, hopp.2, WeierstrassCurve.Affine.Point.add_of_Y_eq hopp.1 (by rw [curve_negY, hopp.2])⟩
  · have hX (l : Coord) : curve.addX x1 x2 l = l ^ 2 - x1 - x2 := by
      simp [WeierstrassCurve.Affine.addX, curve]
    have hY (l : Coord) : curve.addY x1 x2 y1 l = l * (x1 - (l ^ 2 - x1 - x2)) - y1 := by
      rw [WeierstrassCurve.Affine.addY, WeierstrassCurve.Affine.negAddY, curve_negY, hX]
      ring
    refine .inr ⟨curve.slope x1 x2 y1 y2, isSlope_slope h1.1 h2.1 hopp, ?_⟩
    rw [← hY, ← hX]
    exact ⟨_, WeierstrassCurve.Affine.Point.add_some (by rwa [curve_negY])⟩

theorem curve_neg {x y : Coord} (h : curve.Nonsingular x y) :
    ∃ h', (-.some x y h : CurvePoint) = .some x (-y) h' := by
  rw [← curve_negY x y]
  exact ⟨_, WeierstrassCurve.Affine.Point.neg_some h⟩

end

/-! ### The model's points -/

/-- The point of the model denotes the point of the curve. -/
inductive Denotes : Point → CurvePoint → Prop
  | zero : Denotes none .zero
  | some {x y : Nat} (hx : x < params.q) (hy : y < params.q) (h : curve.Nonsingular (x : Coord) (y : Coord)) :
      Denotes (some (x, y)) (.some x y h)

section
variable {X Y : Point} {g k : CurvePoint}

theorem Denotes.of_eq {x y : Nat} {a b : Coord} (hx : x < params.q) (hy : y < params.q) (ha : (x : Coord) = a)
    (hb : (y : Coord) = b) (h : curve.Nonsingular a b) : Denotes (Option.some (x, y)) (.some a b h) := by
  subst ha hb
  exact .some hx hy h

/-- A point of the model is known by the point it denotes. -/
theorem Denotes.injective (h1 : Denotes X g) (h2 : Denotes Y g) : X = Y := by
  cases h1 with
  | zero => cases h2 with | zero => rfl
  | some hx hy h =>
    generalize hg : WeierstrassCurve.Affine.Point.some _ _ h = g' at h2
    cases h2 with
    | zero => cases hg
    | some hx' hy' h' =>
      obtain ⟨ex, ey⟩ := (WeierstrassCurve.Affine.Point.some.injEq ..).mp hg
      rw [(reduced_eq_iff hx hx').mpr ex, (reduced_eq_iff hy hy').mpr ey]

theorem Denotes.onCurve (h : Denotes X g) : OnCurve X := by
  cases h with
  | zero => trivial
  | some hx hy h => exact ⟨hx, hy, (curve_equation_iff _ _).mp h.1⟩

variable [Fact params.q.Prime]

/-- The points on the curve are those that denote one. -/
theorem exists_denotes (h : OnCurve X) : ∃ g, Denotes X g := by
  cases X with
  | none => exact ⟨_, .zero⟩
  | some xy =>
    obtain ⟨hx, hy, heq⟩ := h
    exact ⟨_, .some hx hy (curve_nonsingular heq)⟩

/-- The machine's slope is the slope. -/
theorem cast_slope {x1 y1 x2 y2 : Nat} {l : Coord} (hx1 : x1 < params.q) (hx2 : x2 < params.q)
    (hy1 : y1 < params.q) (h : IsSlope x1 y1 x2 y2 l) : ((slope params x1 y1 x2 y2 : Nat) : Coord) = l := by
  rw [slope]
  rcases h with ⟨hx, hl⟩ | ⟨hx, -, h0, hl⟩
  · have hne : x1 ≠ x2 := fun e => hx (by rw [e])
    have hden : ((subMod params.q x2 x1 : Nat) : Coord) = x2 - x1 := cast_subMod_self _ hx1
    have hinv := cast_invMod_mul q_prime (a := subMod params.q x2 x1)
      (fun h0 => by rw [h0, Nat.cast_zero] at hden; exact hx (sub_eq_zero.mp hden.symm).symm) (subMod_lt q_pos _ _)
    simp only [if_neg hne]
    rw [cast_mulMod_self, cast_subMod_self _ hy1]
    rw [hden] at hinv
    linear_combination (-(((invMod params.q (subMod params.q x2 x1)).getD 0 : Nat) : Coord)) * hl + l * hinv
  · have heq : x1 = x2 := (reduced_eq_iff hx1 hx2).mpr hx
    have hden : ((addMod params.q y1 y1 : Nat) : Coord) = y1 + y1 := cast_addMod_self _ _
    have hinv := cast_invMod_mul q_prime (a := addMod params.q y1 y1)
      (fun hz => by
        rw [hz, Nat.cast_zero, ← two_mul] at hden
        exact (mul_ne_zero two_ne_zero_coord h0) hden.symm) (addMod_lt q_pos _ _)
    simp only [if_pos heq]
    rw [cast_mulMod_self, cast_addMod_self, cast_mulMod_self, cast_mulMod_self]
    rw [hden] at hinv
    push_cast
    linear_combination (-(((invMod params.q (addMod params.q y1 y1)).getD 0 : Nat) : Coord)) * hl + l * hinv

/-- The machine's sum is the sum of the group. -/
theorem Denotes.add (h1 : Denotes X g) (h2 : Denotes Y k) : Denotes (pointAdd params X Y) (g + k) := by
  cases h1 with
  | zero => exact (zero_add k).symm ▸ h2
  | some hx1 hy1 n1 =>
    cases h2 with
    | zero => exact (add_zero (WeierstrassCurve.Affine.Point.some _ _ n1)).symm ▸ .some hx1 hy1 n1
    | @some x2 y2 hx2 hy2 n2 =>
      rename_i x1 y1
      have hopp : (x1 = x2 ∧ addMod params.q y1 y2 = 0) ↔ ((x1 : Coord) = x2 ∧ (y1 : Coord) = -y2) := by
        rw [reduced_eq_iff hx1 hx2, reduced_eq_iff (addMod_lt q_pos _ _) q_pos, cast_addMod_self, Nat.cast_zero,
          eq_neg_iff_add_eq_zero]
      rcases curve_add n1 n2 with ⟨hx, hy, hsum⟩ | ⟨l, hl, h3, hsum⟩
      · rw [hsum, pointAdd]
        simp only [if_pos (hopp.mpr ⟨hx, hy⟩)]
        exact .zero
      · have hne : ¬((x1 : Coord) = x2 ∧ (y1 : Coord) = -y2) := by
          rintro ⟨hx, hy⟩
          rcases hl with ⟨hne, -⟩ | ⟨-, heq, h0, -⟩
          · exact hne hx
          · exact h0 ((mul_eq_zero.mp (show 2 * (y1 : Coord) = 0 by linear_combination hy + heq)).resolve_left
              two_ne_zero_coord)
        have hslope := cast_slope hx1 hx2 hy1 hl
        rw [hsum, pointAdd]
        simp only [if_neg (mt hopp.mp hne)]
        refine Denotes.of_eq (subMod_lt q_pos _ _) (subMod_lt q_pos _ _) ?_ ?_ h3
        · rw [cast_subMod_self _ hx2, cast_subMod_self _ hx1, cast_mulMod_self, hslope]
          ring
        · rw [cast_subMod_self _ hy1, cast_mulMod_self, cast_subMod_self _ (subMod_lt q_pos _ _), cast_subMod_self _ hx2,
            cast_subMod_self _ hx1, cast_mulMod_self, hslope]
          ring

/-- The machine's multiple is the multiple of the group. -/
theorem Denotes.mul (h : Denotes X g) (n : Nat) : Denotes (pointMul params X n) (n • g) := by
  induction n with
  | zero => rw [zero_nsmul]; exact .zero
  | succ n ih => rw [succ_nsmul]; exact ih.add h

theorem Denotes.eq_add (h1 : Denotes X g) (h2 : Denotes Y k) {Z : Point} (hZ : Denotes Z (g + k)) :
    Z = pointAdd params X Y := hZ.injective (h1.add h2)

end

/-- Settles O57: the laws of the group of the curve, carried over to the points that denote its points. -/
theorem pointGroupLaws : Obligations.PointGroupLaws := by
  have hprime : Fact params.q.Prime := ⟨q_prime⟩
  refine ⟨fun P Q hP hQ => ?_, fun P Q R hP hQ hR => ?_, fun P _ => ?_, fun x y hxy => ?_, fun P Q k hP hQ => ?_⟩
  · obtain ⟨g, hg⟩ := exists_denotes hP
    obtain ⟨h, hh⟩ := exists_denotes hQ
    exact ⟨(hg.add hh).onCurve, (hg.add hh).injective (add_comm h g ▸ hh.add hg)⟩
  · obtain ⟨g, hg⟩ := exists_denotes hP
    obtain ⟨h, hh⟩ := exists_denotes hQ
    obtain ⟨k, hk⟩ := exists_denotes hR
    exact ((hg.add hh).add hk).injective ((add_assoc g h k).symm ▸ hg.add (hh.add hk))
  · cases P <;> rfl
  · obtain ⟨-, hy, -⟩ := hxy
    have hzero : addMod params.q y (negMod params.q y) = 0 := by
      rw [reduced_eq_iff (addMod_lt q_pos _ _) q_pos, cast_addMod_self, cast_negMod_self hy, Nat.cast_zero, add_neg_cancel]
    rw [pointAdd]
    exact if_pos ⟨rfl, hzero⟩
  · obtain ⟨g, hg⟩ := exists_denotes hP
    obtain ⟨h, hh⟩ := exists_denotes hQ
    exact ((hg.add hh).mul k).injective ((nsmul_add g h k).symm ▸ (hg.mul k).add (hh.mul k))

/-! ### Triples of a point (R230) -/

/-- The triple is one of the point. -/
def TripleOf (P : Jacobian) : CurvePoint → Prop
  | .zero => P.z = 0
  | .some x y _ => P.z ≠ 0 ∧ x * (P.z : Coord) ^ 2 = P.x ∧ y * (P.z : Coord) ^ 3 = P.y

/-- The affine triple is one of the point. -/
def AffineOf (A : Affine) : CurvePoint → Prop
  | .zero => A.inf = 1
  | .some x y _ => A.inf ≠ 1 ∧ (A.x : Coord) = x ∧ (A.y : Coord) = y

theorem Denotes.standsFor_iff {X : Point} {g : CurvePoint} (h : Denotes X g) (P : Jacobian) :
    StandsFor P X ↔ TripleOf P g := by
  cases h with
  | zero => rfl
  | some hx hy n =>
    exact ⟨fun ⟨hz, _, _, h1, h2⟩ => ⟨hz, h1, h2⟩, fun ⟨hz, h1, h2⟩ => ⟨hz, hx, hy, h1, h2⟩⟩

theorem Denotes.affineStandsFor_iff {X : Point} {g : CurvePoint} (h : Denotes X g) {A : Affine}
    (hA : A.Reduced params.q) : AffineStandsFor A X ↔ AffineOf A g := by
  cases h with
  | zero => rfl
  | some hx hy n =>
    rw [AffineStandsFor, AffineOf, reduced_eq_iff hA.1 hx, reduced_eq_iff hA.2.1 hy]

section
variable {P Q c : Jacobian} {A S : Affine} {g k : CurvePoint}

/-- `Z` is 0 as an integer when it is so in the field. -/
theorem z_eq_zero_iff (hc : c.Reduced params.q) : c.z = 0 ↔ (c.z : Coord) = 0 := by
  rw [reduced_eq_iff hc.2.2 q_pos, Nat.cast_zero]

theorem TripleOf.eq_zero (h : TripleOf P g) (hz : P.z = 0) : g = 0 := by
  cases g with
  | zero => rfl
  | some x y n => exact absurd hz h.1

theorem tripleOf_zero (hz : P.z = 0) : TripleOf P 0 := hz

variable [Fact params.q.Prime]

/-- A triple `(x·Z², y·Z³, Z)` of a sum, from the slope. -/
theorem tripleOf_some {x y : Coord} (hc : c.Reduced params.q) (n : curve.Nonsingular x y) (hz : (c.z : Coord) ≠ 0)
    (hx : (c.x : Coord) = x * (c.z : Coord) ^ 2) (hy : (c.y : Coord) = y * (c.z : Coord) ^ 3) :
    TripleOf c (.some x y n) := ⟨mt (z_eq_zero_iff hc).mp hz, hx.symm, hy.symm⟩

/-- The doubling of R235 doubles. -/
theorem DoubleRule.tripleOf (hP : P.Reduced params.q) (hd : DoubleRule P c) (h : TripleOf P g) : TripleOf c (g + g) := by
  obtain ⟨hc, hkeep, hrule⟩ := hd
  by_cases hz : P.z = 0
  · rw [h.eq_zero hz, add_zero, hkeep hz]
    exact hz
  · cases g with
    | zero => exact absurd h hz
    | some x y n =>
      obtain ⟨-, hPx, hPy⟩ := h
      have hz0 := z_ne_zero hP hz
      obtain ⟨hcx, hcy, hcz⟩ := hrule hz
      simp only [← hPx, ← hPy] at hcx hcy hcz
      rcases curve_add n n with ⟨-, hy, hsum⟩ | ⟨l, hl, h3, hsum⟩
      · rw [hsum]
        refine (z_eq_zero_iff hc).mpr ?_
        rw [hcz]
        linear_combination (P.z : Coord) ^ 4 * hy
      · rw [hsum]
        obtain ⟨hne, -⟩ | ⟨-, -, h0, hl⟩ := hl
        · exact absurd rfl hne
        · have hcx' : (c.x : Coord) = (l ^ 2 - x - x) * (c.z : Coord) ^ 2 := by
            rw [hcx, hcz]
            linear_combination (-(P.z : Coord) ^ 8 * (3 * x ^ 2 + params.coeffA + 2 * y * l)) * hl
          refine tripleOf_some hc h3 ?_ hcx' ?_
          · rw [hcz]
            exact mul_ne_zero (mul_ne_zero two_ne_zero_coord (mul_ne_zero h0 (pow_ne_zero 3 hz0))) hz0
          · rw [hcy, hcx', hcz]
            linear_combination (-(P.z : Coord) ^ 12 * 4 * y ^ 2 * (x - (l ^ 2 - x - x))) * hl

/-- Coordinates over different denominators are equal when the cross-products are. -/
theorem cross_mul_eq_iff {x1 x2 z1 z2 : Coord} (h1 : z1 ≠ 0) (h2 : z2 ≠ 0) (n : Nat) :
    x1 * z1 ^ n * z2 ^ n = x2 * z2 ^ n * z1 ^ n ↔ x1 = x2 := by
  rw [mul_assoc, mul_assoc, mul_comm (z2 ^ n)]
  exact mul_left_inj' (mul_ne_zero (pow_ne_zero n h1) (pow_ne_zero n h2))

/-- The general sum of R236 for `ζ = Z1·Z2`: chord and tangent, or opposite points. -/
theorem tripleOf_chord {x1 y1 x2 y2 ζ : Coord} (n1 : curve.Nonsingular x1 y1) (n2 : curve.Nonsingular x2 y2)
    (hne : ¬(x1 = x2 ∧ y1 = y2)) (hζ : ζ ≠ 0) (hc : c.Reduced params.q) (hz : (c.z : Coord) = 2 * (x2 - x1) * ζ ^ 3)
    (hx : (c.x : Coord) = 4 * ζ ^ 6 * ((y2 - y1) ^ 2 - (x2 - x1) ^ 3 - 2 * x1 * (x2 - x1) ^ 2))
    (hy : (c.y : Coord) = 2 * (y2 - y1) * ζ ^ 3 * (4 * x1 * ζ ^ 6 * (x2 - x1) ^ 2 - c.x) - 8 * y1 * ζ ^ 9 * (x2 - x1) ^ 3) :
    TripleOf c (.some x1 y1 n1 + .some x2 y2 n2) := by
  rcases curve_add n1 n2 with ⟨hsame, -, hsum⟩ | ⟨l, ⟨hdiff, hl⟩ | ⟨hsame, hsame', -⟩, h3, hsum⟩
  · rw [hsum]
    refine (z_eq_zero_iff hc).mpr ?_
    rw [hz, hsame, sub_self, mul_zero, zero_mul]
  · have hx' : (c.x : Coord) = (l ^ 2 - x1 - x2) * (c.z : Coord) ^ 2 := by
      rw [hx, hz]
      linear_combination (-4 * ζ ^ 6 * (l * (x2 - x1) + (y2 - y1))) * hl
    rw [hsum]
    refine tripleOf_some hc h3 ?_ hx' ?_
    · rw [hz]
      exact mul_ne_zero (mul_ne_zero two_ne_zero_coord (sub_ne_zero.mpr (Ne.symm hdiff))) (pow_ne_zero 3 hζ)
    · rw [hy, hx', hz]
      linear_combination (-8 * ζ ^ 9 * (x2 - x1) ^ 2 * (x1 - (l ^ 2 - x1 - x2))) * hl
  · exact absurd ⟨hsame, hsame'⟩ hne

/-- The addition of R236 adds. -/
theorem AddRule.tripleOf (hP : P.Reduced params.q) (hQ : Q.Reduced params.q) (ha : AddRule P Q c) (h1 : TripleOf P g)
    (h2 : TripleOf Q k) : TripleOf c (g + k) := by
  obtain ⟨hc, hleft, hright, hrule⟩ := ha
  by_cases hz1 : P.z = 0
  · rw [h1.eq_zero hz1, zero_add, hleft hz1]
    exact h2
  by_cases hz2 : Q.z = 0
  · rw [h2.eq_zero hz2, add_zero, hright hz1 hz2]
    exact h1
  cases g with
  | zero => exact absurd h1 hz1
  | some x1 y1 n1 =>
    cases k with
    | zero => exact absurd h2 hz2
    | some x2 y2 n2 =>
      have hP0 := z_ne_zero hP hz1
      have hQ0 := z_ne_zero hQ hz2
      obtain ⟨-, hPx, hPy⟩ := id h1
      obtain ⟨-, hQx, hQy⟩ := id h2
      obtain ⟨hsame, hdiff⟩ := hrule hz1 hz2
      simp only [← hPx, ← hPy, ← hQx, ← hQy, cross_mul_eq_iff hP0 hQ0] at hsame hdiff
      by_cases heq : x1 = x2 ∧ y1 = y2
      · obtain ⟨rfl, rfl⟩ := heq
        exact (hsame rfl rfl).tripleOf hP h1
      · obtain ⟨hcx, hcy, hcz⟩ := hdiff heq
        exact tripleOf_chord n1 n2 heq (mul_ne_zero hP0 hQ0) hc (by rw [hcz]; ring) (by rw [hcx]; ring)
          (by rw [hcy]; ring)

/-- The mixed sum of R237 is that of R236 with the triple `(x, y, 1)`. -/
theorem MixedRule.addRule (hm : MixedRule P A c) (h1 : A.inf ≠ 1) : AddRule P ⟨A.x, A.y, 1⟩ c := by
  obtain ⟨hc, -, hzero, hrule⟩ := hm
  refine ⟨hc, hzero h1, fun _ h => absurd h one_ne_zero, fun hz _ => ?_⟩
  obtain ⟨hsame, hdiff⟩ := hrule h1 hz
  simp only [Nat.cast_one, one_pow, mul_one]
  refine ⟨fun hU hS => hsame hU.symm hS.symm, fun hne => ?_⟩
  obtain ⟨hcx, hcy, hcz⟩ := hdiff fun h => hne ⟨h.1.symm, h.2.symm⟩
  exact ⟨by rw [hcx]; ring, by rw [hcy]; ring, by rw [hcz]; ring⟩

/-- The mixed addition of R237 adds. -/
theorem MixedRule.tripleOf (hP : P.Reduced params.q) (hA : A.Reduced params.q) (hm : MixedRule P A c) (h1 : TripleOf P g)
    (h2 : AffineOf A k) : TripleOf c (g + k) := by
  cases k with
  | zero =>
    obtain ⟨-, hkeep, -⟩ := hm
    rw [hkeep h2]
    exact (add_zero g).symm ▸ h1
  | some x y n =>
    obtain ⟨hinf, hx, hy⟩ := h2
    refine (hm.addRule hinf).tripleOf hP ⟨hA.1, hA.2.1, one_lt_q⟩ h1 ⟨one_ne_zero, ?_, ?_⟩
    · simp [hx]
    · simp [hy]

/-- The negative of R238 is the opposite. -/
theorem NegRule.affineOf (hn : NegRule A S) (h : AffineOf A g) : AffineOf S (-g) := by
  obtain ⟨-, hinf, hfinite⟩ := hn
  cases g with
  | zero =>
    have hS : S.inf = 1 := by rw [hinf h]
    exact hS
  | some x y n =>
    obtain ⟨h1, hx, hy⟩ := h
    obtain ⟨hSx, hSy, hS⟩ := hfinite h1
    obtain ⟨n', hneg⟩ := curve_neg n
    rw [hneg]
    exact ⟨by rw [hS]; exact zero_ne_one, by rw [hSx, hx], by rw [hSy, hy]⟩

/-- The affine triple of R241 is one of the same point. -/
theorem AffineRule.affineOf (hP : P.Reduced params.q) (ha : AffineRule P A) (h : TripleOf P g) : AffineOf A g := by
  obtain ⟨-, hinf, hfinite⟩ := ha
  cases g with
  | zero =>
    have hA : A.inf = 1 := by rw [hinf h]
    exact hA
  | some x y n =>
    obtain ⟨hz, hx, hy⟩ := h
    have hz0 := z_ne_zero hP hz
    obtain ⟨hAx, hAy, hA⟩ := hfinite hz
    exact ⟨by rw [hA]; exact zero_ne_one, mul_right_cancel₀ (pow_ne_zero 2 hz0) (hAx.trans hx.symm),
      mul_right_cancel₀ (pow_ne_zero 3 hz0) (hAy.trans hy.symm)⟩

end

/-! ### The group commands (R231, R255) -/

section
variable {P : Jacobian} {A B : Affine} {X Y : Point}

theorem toJacobian_standsFor (hA : A.Reduced params.q) (h : AffineStandsFor A X) : StandsFor (toJacobian A) X := by
  rw [toJacobian]
  cases X with
  | none => rw [if_pos (show A.inf = 1 from h)]; rfl
  | some xy =>
    obtain ⟨h1, hx, hy⟩ := h
    rw [if_neg h1]
    exact ⟨one_ne_zero, hx ▸ hA.1, hy ▸ hA.2.1, by simp [hx], by simp [hy]⟩

theorem toAffine_standsFor (hP : P.Reduced params.q) (h : StandsFor P X) : AffineStandsFor (toAffine params P) X := by
  have hprime : Fact params.q.Prime := ⟨q_prime⟩
  obtain ⟨hA, hinf, hfinite⟩ := toAffine_rule hP
  cases X with
  | none => rw [hinf h]; rfl
  | some xy =>
    obtain ⟨hz, hxlt, hylt, hx, hy⟩ := h
    have hz0 := z_ne_zero hP hz
    obtain ⟨hAx, hAy, hA0⟩ := hfinite hz
    exact ⟨by rw [hA0]; exact zero_ne_one,
      (reduced_eq_iff hA.1 hxlt).mpr (mul_right_cancel₀ (pow_ne_zero 2 hz0) (hAx.trans hx.symm)),
      (reduced_eq_iff hA.2.1 hylt).mpr (mul_right_cancel₀ (pow_ne_zero 3 hz0) (hAy.trans hy.symm))⟩

/-- The negative stands for the opposite point. -/
theorem affNeg_opposite (hX : OnCurve X) (h1 : AffineStandsFor A X)
    (h2 : AffineStandsFor (affNeg params A) Y) : pointAdd params X Y = none := by
  cases X with
  | none =>
    cases Y with
    | none => rfl
    | some xy =>
      have hinf : (affNeg params A).inf = 1 := by rw [affNeg, if_pos (show A.inf = 1 from h1)]; rfl
      exact absurd hinf h2.1
  | some xy =>
    obtain ⟨x, y⟩ := xy
    obtain ⟨hinf, rfl, rfl⟩ := h1
    rw [affNeg, if_neg hinf] at h2
    cases Y with
    | none => exact absurd h2 (show (0 : Nat) ≠ 1 by decide)
    | some xy' =>
      obtain ⟨x', y'⟩ := xy'
      obtain ⟨-, rfl, rfl⟩ := h2
      obtain ⟨-, -, -, hneg, -⟩ := pointGroupLaws
      exact hneg A.x A.y hX

end

/-- Settles O58: each value function meets its rule, and the rules follow the group. -/
theorem pointCommandsFollowGroup : Obligations.PointCommandsFollowGroup := by
  have hprime : Fact params.q.Prime := ⟨q_prime⟩
  refine ⟨unary_of jacElem_form jacElem_form (jacDouble params) (fun _ _ _ => rfl) fun P hP =>
      ⟨jacDouble_reduced one_lt_q hP, fun X hX h => ?_⟩,
    binary_of jacElem_form jacElem_form jacElem_form (jacAdd params) (fun _ _ _ _ => rfl) fun P Q hP hQ =>
      ⟨jacAdd_reduced one_lt_q hP hQ, fun X Y hX hY h1 h2 => ?_⟩,
    binary_of jacElem_form affElem_form jacElem_form (jacAddMixed params) (fun _ _ _ _ => rfl) fun P A hP hA =>
      ⟨jacAddMixed_reduced one_lt_q hP hA, fun X Y hX hY h1 h2 => ?_⟩,
    unary_of affElem_form jacElem_form toJacobian (fun _ _ _ => rfl) fun A hA =>
      ⟨toJacobian_reduced one_lt_q hA, fun X => toJacobian_standsFor hA⟩,
    unary_of jacElem_form affElem_form (toAffine params) (fun _ _ _ => rfl) fun P hP =>
      ⟨toAffine_reduced one_lt_q hP, fun X => toAffine_standsFor hP⟩,
    unary_of affElem_form affElem_form (affNeg params) (fun _ _ _ => rfl) fun A hA =>
      ⟨affNeg_reduced one_lt_q hA, fun _ _ => affNeg_opposite⟩⟩
  · obtain ⟨g, hg⟩ := exists_denotes hX
    exact ((hg.add hg).standsFor_iff _).mpr ((jacDouble_rule hP).tripleOf hP ((hg.standsFor_iff P).mp h))
  · obtain ⟨g, hg⟩ := exists_denotes hX
    obtain ⟨k, hk⟩ := exists_denotes hY
    exact ((hg.add hk).standsFor_iff _).mpr ((jacAdd_rule hP hQ).tripleOf hP hQ ((hg.standsFor_iff P).mp h1)
      ((hk.standsFor_iff Q).mp h2))
  · obtain ⟨g, hg⟩ := exists_denotes hX
    obtain ⟨k, hk⟩ := exists_denotes hY
    exact ((hg.add hk).standsFor_iff _).mpr ((jacAddMixed_rule hP hA).tripleOf hP hA ((hg.standsFor_iff P).mp h1)
      ((hk.affineStandsFor_iff hA).mp h2))

end Sys2Proof.Machine
end

section
/-! Scalar multiples (44_curve_group.md R255, 46_scalar_mul.md R287, R288): the loops of the rules compute multiples in the
group of the curve. -/

namespace Sys2Proof.Machine

open Config

/-! ### Lists and digits (R284) -/

theorem forall₂_getElem? {α β : Type} {R : α → β → Prop} {as : List α} {bs : List β} (h : List.Forall₂ R as bs) {i : Nat}
    {b : β} (hb : bs[i]? = some b) : ∃ a, as[i]? = some a ∧ R a b := by
  induction h generalizing i with
  | nil => cases hb
  | cons hab _ ih =>
    cases i with
    | zero =>
      obtain rfl := Option.some.inj hb
      exact ⟨_, rfl, hab⟩
    | succ i => exact ih hb

/-- Digits other than 0 are odd. -/
def OddDigits (ds : List Int) : Prop := ∀ (i : Nat) (d : Int), ds[i]? = some d → d ≠ 0 → d % 2 = 1

/-- The number that the first `i` digits stand for. -/
def leadingValue (ds : List Int) (i : Nat) : Int := ∑ j ∈ Finset.range i, ds.getD j 0 * 2 ^ j

theorem leadingValue_succ (ds : List Int) (i : Nat) :
    leadingValue ds (i + 1) = leadingValue ds i + ds.getD i 0 * 2 ^ i := Finset.sum_range_succ ..

/-- All the digits stand for the value of the list. -/
theorem leadingValue_eq (ds : List Int) {i : Nat} (hi : ds.length ≤ i) : leadingValue ds i = digitsValue ds := by
  induction ds generalizing i with
  | nil => simp [leadingValue, digitsValue]
  | cons d ds ih =>
    obtain ⟨i, rfl⟩ := Nat.exists_eq_succ_of_ne_zero (show i ≠ 0 by rintro rfl; simp at hi)
    have htail := ih (i := i) (by simpa using hi)
    rw [leadingValue] at htail
    rw [leadingValue, Finset.sum_range_succ', digitsValue, List.foldr_cons, ← digitsValue, ← htail, Finset.mul_sum]
    simp only [List.getD_cons_succ, List.getD_cons_zero, pow_zero, mul_one]
    rw [add_comm]
    exact congrArg (d + ·) (Finset.sum_congr rfl fun j _ => by ring)

theorem oddDigits_withSign {e : Nat} {ds : List Int} (hds : IsWnaf e ds) (negative : Bool) :
    OddDigits (withSign negative ds) := fun i d hi h0 => by
  cases negative with
  | false =>
    obtain ⟨hodd, -, -⟩ := hds.digit i d hi h0
    exact hodd
  | true =>
    rw [withSign, if_pos rfl, List.getElem?_map, Option.map_eq_some_iff] at hi
    obtain ⟨x, hx, rfl⟩ := hi
    obtain ⟨hodd, -, -⟩ := hds.digit i x hx (fun hx0 => h0 (by rw [hx0, neg_zero]))
    omega

theorem digitsValue_withSign {e : Nat} {ds : List Int} (hds : IsWnaf e ds) (negative : Bool) :
    digitsValue (withSign negative ds) = signedValue negative e := by
  have hneg (ds : List Int) : digitsValue (ds.map Neg.neg) = -digitsValue ds := by
    induction ds with
    | nil => rfl
    | cons d ds ih =>
      simp only [digitsValue, List.map_cons, List.foldr_cons] at ih ⊢
      rw [ih]
      ring
  cases negative with
  | false => exact hds.value
  | true => rw [withSign, if_pos rfl, hneg, hds.value]; rfl

theorem length_withSign (negative : Bool) (ds : List Int) : (withSign negative ds).length = ds.length := by
  cases negative <;> simp [withSign]

theorem pointMul_none (n : Nat) : pointMul params none n = none := by
  induction n with
  | zero => rfl
  | succ n ih => rw [pointMul, ih]; rfl

theorem Denotes.eq_zero {g : CurvePoint} (h : Denotes none g) : g = 0 := by cases h; rfl

section
variable {P Q c : Jacobian} {X : Point} {g g0 h : CurvePoint} [Fact params.q.Prime]

/-! ### Double-and-add (R287) -/

/-- The triple after the leading bits that make up `e` is one of `e·P`. -/
theorem NaiveRule.tripleOf (hP : P.Reduced params.q) (hg : TripleOf P g) {e : Nat} (hn : NaiveRule P e c) :
    c.Reduced params.q ∧ TripleOf c (e • g) := by
  induction hn with
  | zero => exact ⟨jacIdentity_reduced one_lt_q, (zero_nsmul g).symm ▸ tripleOf_zero rfl⟩
  | even he h hd ih =>
    obtain ⟨hR, hval⟩ := ih
    exact ⟨hd.1, by rw [two_mul, add_nsmul]; exact hd.tripleOf hR hval⟩
  | odd h hd ha ih =>
    obtain ⟨hR, hval⟩ := ih
    refine ⟨ha.1, ?_⟩
    rw [add_nsmul, one_nsmul, two_mul, add_nsmul]
    exact ha.tripleOf hd.1 hP (hd.tripleOf hR hval) hg

/-! ### The subgroup of the generator (00_scope.md R7 WF6, WF7) -/

theorem generator_onCurve : OnCurve params.generator := by
  have hcurve := of_decide_eq_true params_wellFormed.gen_onCurve
  rw [reduced_eq_iff (mulMod_lt q_pos _ _) (addMod_lt q_pos _ _)] at hcurve
  simp only [cast_addMod_self, cast_mulMod_self] at hcurve
  refine ⟨params_wellFormed.genX_lt, params_wellFormed.genY_lt, ?_⟩
  linear_combination hcurve

/-- The order of the generator is a multiple of zero. -/
theorem Denotes.order_nsmul (h0 : Denotes params.generator g0) : params.r • g0 = 0 :=
  (params_wellFormed.gen_order ▸ h0.mul params.r).eq_zero

/-- On the subgroup the endomorphism is the multiple by `λ` (R282). -/
theorem endoTriple_standsFor {k : Nat} (hk : k < params.r) (hX : X = pointMul params params.generator k)
    (h : StandsFor Q X) : StandsFor (endoTriple Q) (pointMul params X params.lambda) := by
  cases X with
  | none => rw [pointMul_none]; exact h
  | some xy =>
    obtain ⟨x, y⟩ := xy
    obtain ⟨hz, -, hylt, hx, hy⟩ := h
    rw [params_wellFormed.endo k hk x y hX.symm]
    have hX : ((mulMod params.q params.endoBeta x : Nat) : Coord) * (Q.z : Coord) ^ 2 =
        ((params.endoBeta * Q.x % params.q : Nat) : Coord) := by
      rw [cast_mulMod_self, mul_assoc, hx, ZMod.natCast_mod, Nat.cast_mul]
    exact ⟨hz, mulMod_lt q_pos _ _, hylt, hX, hy⟩

theorem endoTriple_tripleOf (h0 : Denotes params.generator g0) {j : Nat} (h : TripleOf Q (j • g0)) :
    TripleOf (endoTriple Q) (params.lambda • j • g0) := by
  have hmod : j • g0 = (j % params.r) • g0 := by
    conv_lhs => rw [← Nat.div_add_mod j params.r, add_nsmul, mul_nsmul, h0.order_nsmul, nsmul_zero, zero_add]
  rw [hmod] at h ⊢
  have hX := h0.mul (j % params.r)
  exact ((hX.mul params.lambda).standsFor_iff _).mp
    (endoTriple_standsFor (Nat.mod_lt j r_pos) rfl ((hX.standsFor_iff Q).mpr h))

/-! ### The tables (R283) -/

/-- Entry `i` of the table is an affine triple of the odd multiple `2i + 1`. -/
def TableOf (A : List Affine) (g : CurvePoint) : Prop :=
  ∀ i E, A[i]? = some E → E.Reduced params.q ∧ AffineOf E ((2 * i + 1) • g)

/-- Entry `i` of the first table is a triple of the odd multiple `2i + 1`. -/
theorem OddTable.tripleOf {T : List Jacobian} (hP : P.Reduced params.q) (hT : OddTable P T) (hg : TripleOf P g) {i : Nat}
    {B : Jacobian} (hB : T[i]? = some B) : B.Reduced params.q ∧ TripleOf B ((2 * i + 1) • g) := by
  obtain ⟨-, hhead, D, A, hD, hA, hnext⟩ := hT
  have hAval : AffineOf A (g + g) := hA.affineOf hD.1 (hD.tripleOf hP hg)
  induction i generalizing B with
  | zero =>
    obtain rfl := Option.some.inj (hhead.symm.trans hB)
    exact ⟨hP, by rwa [Nat.mul_zero, zero_add, one_nsmul]⟩
  | succ i ih =>
    obtain ⟨hlt, -⟩ := List.getElem?_eq_some_iff.mp hB
    have hbefore : T[i]? = some T[i] := List.getElem?_eq_getElem (Nat.lt_of_succ_lt hlt)
    obtain ⟨hred, hval⟩ := ih hbefore
    have hmixed := hnext i _ _ hbefore hB
    refine ⟨hmixed.1, ?_⟩
    rw [show 2 * (i + 1) + 1 = 2 * i + 1 + (1 + 1) by ring, add_nsmul g (2 * i + 1), add_nsmul g 1, one_nsmul]
    exact hmixed.tripleOf hred hA.1 hval hAval

/-- Affine triples of the odd multiples make a table. -/
theorem tableOf_of_forall₂ {T : List Jacobian} {A : List Affine} (hA : List.Forall₂ AffineRule T A)
    (hT : ∀ i B, T[i]? = some B → B.Reduced params.q ∧ TripleOf B ((2 * i + 1) • g)) : TableOf A g := fun i E hE => by
  obtain ⟨B, hB, hrule⟩ := forall₂_getElem? hA hE
  obtain ⟨hred, hval⟩ := hT i B hB
  exact ⟨hrule.1, hrule.affineOf hred hval⟩

/-! ### The combined loop (R285) -/

/-- One table adds the multiple by its digit. -/
theorem DigitRule.tripleOf {ds : List Int} {A : List Affine} {i : Nat} {acc : Jacobian} {a : CurvePoint}
    (hA : TableOf A g) (hds : OddDigits ds) (hacc : acc.Reduced params.q) (ha : TripleOf acc a)
    (hd : DigitRule ds A i acc c) : c.Reduced params.q ∧ TripleOf c (a + ds.getD i 0 • g) := by
  obtain ⟨hdigit, hkeep⟩ := hd
  rw [List.getD_eq_getElem?_getD]
  cases hi : ds[i]? with
  | none =>
    rw [hkeep (.inl hi), Option.getD_none, zero_zsmul, add_zero]
    exact ⟨hacc, ha⟩
  | some d =>
    rw [Option.getD_some]
    by_cases h0 : d = 0
    · subst h0
      rw [hkeep (.inr hi), zero_zsmul, add_zero]
      exact ⟨hacc, ha⟩
    · obtain ⟨E, S, hE, hpos, hneg, hmixed⟩ := hdigit d hi h0
      obtain ⟨hEred, hEval⟩ := hA _ E hE
      have hodd := hds i d hi h0
      rw [show 2 * (d.natAbs / 2) + 1 = d.natAbs by omega] at hEval
      have hS : S.Reduced params.q ∧ AffineOf S (d • g) := by
        rcases lt_or_gt_of_ne h0 with hlt | hgt
        · have hrule := hneg hlt
          refine ⟨hrule.1, ?_⟩
          have hval := hrule.affineOf hEval
          rwa [← natCast_zsmul, ← neg_zsmul, show -(d.natAbs : Int) = d by omega] at hval
        · rw [hpos hgt]
          rw [← natCast_zsmul, show (d.natAbs : Int) = d by omega] at hEval
          exact ⟨hEred, hEval⟩
      exact ⟨hmixed.1, hmixed.tripleOf hacc hS.1 ha hS.2⟩

/-- From position `i − 1` down the loop doubles what it has and adds the digits below `i`. -/
theorem LoopRule.tripleOf {n1 n2 : List Int} {A1 A2 : List Affine} (h1 : TableOf A1 g) (h2 : TableOf A2 h)
    (hn1 : OddDigits n1) (hn2 : OddDigits n2) {i : Nat} {acc : Jacobian} (hl : LoopRule n1 n2 A1 A2 i acc c)
    {a : CurvePoint} (hacc : acc.Reduced params.q) (ha : TripleOf acc a) :
    TripleOf c ((2 ^ (i - 1) : Int) • a + leadingValue n1 i • g + leadingValue n2 i • h) := by
  induction hl generalizing a with
  | empty => simpa [leadingValue] using ha
  | last hd1 hd2 =>
    obtain ⟨hred, hval⟩ := hd1.tripleOf h1 hn1 hacc ha
    obtain ⟨-, hval'⟩ := hd2.tripleOf h2 hn2 hred hval
    simpa [leadingValue] using hval'
  | @next i acc b1 b2 d c hd1 hd2 hd _ ih =>
    obtain ⟨hred, hval⟩ := hd1.tripleOf h1 hn1 hacc ha
    obtain ⟨hred', hval'⟩ := hd2.tripleOf h2 hn2 hred hval
    have hnext := ih hd.1 (hd.tripleOf hred' hval')
    rw [leadingValue_succ n1 (i + 1), leadingValue_succ n2 (i + 1)]
    convert hnext using 1
    rw [show i + 2 - 1 = i + 1 by omega, Nat.add_sub_cancel, pow_succ]
    module

/-! ### The GLV algorithm (R286, R288) -/

/-- For a triple of a multiple of the generator the algorithm gives the multiple by `k`. -/
theorem GlvRule.tripleOf (h0 : Denotes params.generator g0) (hP : P.Reduced params.q) {j : Nat}
    (hg : TripleOf P (j • g0)) {k : Nat} (hk : k < params.r) (hglv : GlvRule P k c) : TripleOf c (k • j • g0) := by
  obtain ⟨T, A1, A2, n1, n2, hT, hA1, hA2, hn1, hn2, hloop⟩ := hglv
  have htable1 : TableOf A1 (j • g0) := tableOf_of_forall₂ hA1 fun i B hB => hT.tripleOf hP hg hB
  have htable2 : TableOf A2 (params.lambda • j • g0) := tableOf_of_forall₂ hA2 fun i C hC => by
    rw [List.getElem?_map, Option.map_eq_some_iff] at hC
    obtain ⟨B, hB, rfl⟩ := hC
    obtain ⟨hred, hval⟩ := hT.tripleOf hP hg hB
    refine ⟨endoTriple_reduced hred, ?_⟩
    rw [← mul_nsmul'] at hval ⊢
    have hendo := endoTriple_tripleOf h0 hval
    convert hendo using 1
    module
  have hresult := hloop.tripleOf htable1 htable2 (oddDigits_withSign hn1 _) (oddDigits_withSign hn2 _)
    (jacIdentity_reduced one_lt_q) (tripleOf_zero rfl)
  rw [leadingValue_eq _ (by rw [length_withSign]; exact le_max_left _ _),
    leadingValue_eq _ (by rw [length_withSign]; exact le_max_right _ _), digitsValue_withSign hn1,
    digitsValue_withSign hn2, zsmul_zero, zero_add] at hresult
  obtain ⟨z, hz⟩ := params_wellFormed.glvSound k hk
  convert hresult using 1
  have horder : (z * (params.r : Int)) • j • g0 = 0 := by
    rw [mul_zsmul, natCast_zsmul, nsmul_left_comm, h0.order_nsmul, nsmul_zero, zsmul_zero]
  rw [← natCast_zsmul (j • g0) k, hz, add_zsmul, horder, add_zero, add_zsmul, mul_zsmul, natCast_zsmul (j • g0)]

end

/-- Settles O59: double-and-add in the group, and the order of the generator. -/
theorem pmulnScalarMultiple : Obligations.PmulnScalarMultiple := by
  have hprime : Fact params.q.Prime := ⟨q_prime⟩
  refine binary_of jacElem_form rawElem_form jacElem_form (naiveMul params) (fun _ _ _ _ => rfl) fun P e hP _ =>
    ⟨naiveMul_reduced one_lt_q hP e, ?_⟩
  have hmul {X : Point} (hX : OnCurve X) (h : StandsFor P X) : StandsFor (naiveMul params P e) (pointMul params X e) := by
    obtain ⟨g, hg⟩ := exists_denotes hX
    obtain ⟨-, hval⟩ := (naiveMul_rule hP e).tripleOf hP ((hg.standsFor_iff P).mp h)
    exact ((hg.mul e).standsFor_iff _).mpr hval
  refine ⟨fun X hX h => hmul hX h, fun h he => ?_⟩
  have horder := hmul generator_onCurve h
  rw [he, params_wellFormed.gen_order] at horder
  rw [he]
  exact horder

/-- Settles O60: the algorithm in the group, on the multiples of the generator. -/
theorem pmulScalarMultiple : Obligations.PmulScalarMultiple := by
  have hprime : Fact params.q.Prime := ⟨q_prime⟩
  obtain ⟨g0, h0⟩ := exists_denotes generator_onCurve
  refine binary_of jacElem_form (primeElem_form _) jacElem_form (glvMul params) (fun _ _ _ _ => rfl) fun P k hP hk =>
    ⟨glvMul_reduced one_lt_q hP k, ?_⟩
  rintro X ⟨j, rfl⟩ h
  have hg := h0.mul j
  exact ((hg.mul k).standsFor_iff _).mpr ((glvMul_rule hP k).tripleOf h0 hP ((hg.standsFor_iff P).mp h) hk)

end Sys2Proof.Machine
end
